-- ==== Sys2Proof/Word.lean ====
section
/-!
DEFINITION. The word types of HWT-AESINV: a datum is a byte or a byte sequence (R105), and the host
always moves 32 bits (R52, R54). Bits are numbered from 0 at the least significant bit (R7).
-/

namespace Sys2Proof

/-- An 8-bit byte, the engine's own unit of access (R55). -/
abbrev Byte := BitVec 8

/-- A 32-bit register value of the host interface (R26). -/
abbrev Word := BitVec 32

/-- A 16-byte block, also read as the 4 x 4 matrix whose element (r, c) is byte `r + 4c` (R10). -/
abbrev Block := Vector Byte 16

end Sys2Proof
end

