-- ==== Sys2Proof/Syntax.lean ====
section
/-!
DEFINITION. The commands of HWT-AESINV, one constructor per row of spec/opcode_table.json (R82).
-/

namespace Sys2Proof

/-- The four commands. `len` is the LEN field, a byte count, unsigned and not scaled (R83). -/
inductive Instr where
  /-- OP 0x0 (R189). -/
  | nop
  /-- OP 0x1, LEN the key length in bytes (R125). -/
  | expand (len : Nat)
  /-- OP 0x2, LEN the block length in bytes (R150). -/
  | decryptBlock (len : Nat)
  /-- OP 0x3; its operands are BUF_OFF and BUF_LEN (R170). -/
  | decryptBuf
  deriving DecidableEq, Repr

end Sys2Proof
end

