-- ==== Sys2Proof/WellFormed.lean ====
section
/-!
DEFINITION. Which commands have an encoding: LEN is an 8-bit field (R80), so `0 <= L <= 255` (R83).
A length that the command then rejects (EXPAND of 20 bytes, say) is well formed: R83 makes it an error
of the command, not another encoding.
-/

namespace Sys2Proof

/-- The one check: the length operand fits the LEN field. -/
def Instr.wellFormed : Instr → Bool
  | .nop => true
  | .expand len => decide (len ≤ 255)
  | .decryptBlock len => decide (len ≤ 255)
  | .decryptBuf => true

end Sys2Proof
end

