-- ==== Sys2Proof/Decode.lean ====
section
/-!
DEFINITION. The command word: its fields (R80), the decoder (total on all 2^32 words, R84, R188), the
encoder, and the opcode table of R82. Every command is exactly one 32-bit word (R85).
-/

namespace Sys2Proof

/-- OP, bits 3:0 (R80). -/
def opField (w : Word) : BitVec 4 := w.extractLsb' 0 4

/-- RSV0, bits 7:4 (R80). -/
def rsv0Field (w : Word) : BitVec 4 := w.extractLsb' 4 4

/-- LEN, bits 15:8 (R80, R83). -/
def lenField (w : Word) : Byte := w.extractLsb' 8 8

/-- RSV1, bits 31:16 (R80). -/
def rsv1Field (w : Word) : BitVec 16 := w.extractLsb' 16 16

/-- Why a word is illegal (R84). The engine reports every one of them as ILLEGAL_CMD (R203). -/
inductive DecodeError where
  /-- Bits 31:16 are not zero. -/
  | rsv1NotZero
  /-- Bits 7:4 are not zero. -/
  | rsv0NotZero
  /-- OP is one of 0x4 .. 0xF. -/
  | reservedOp
  /-- OP is 0x0 or 0x3 and LEN is not zero. -/
  | lenNotZero
  deriving DecidableEq, Repr

/-- A command that takes no LEN is legal only with LEN = 0 (R84). -/
def withoutLen (len : Byte) (i : Instr) : Except DecodeError Instr :=
  if len = 0 then .ok i else .error .lenNotZero

/-- The decoder: the checks and the case on OP of R188. -/
def decode (w : Word) : Except DecodeError Instr :=
  if rsv1Field w ≠ 0 then .error .rsv1NotZero
  else if rsv0Field w ≠ 0 then .error .rsv0NotZero
  else
    match (opField w).toNat with
    | 0 => withoutLen (lenField w) .nop
    | 1 => .ok (.expand (lenField w).toNat)
    | 2 => .ok (.decryptBlock (lenField w).toNat)
    | 3 => withoutLen (lenField w) .decryptBuf
    | _ => .error .reservedOp

/-- The CMD format, bit 31 first: RSV1 = 0, LEN, RSV0 = 0, OP (R80's pattern string). -/
def packCmd (len : Nat) (op : BitVec 4) : Word :=
  (0#16 ++ BitVec.ofNat 8 len ++ 0#4 ++ op : BitVec (16 + 8 + 4 + 4))

/-- The word of a command (R82). -/
def encode : Instr → Word
  | .nop => packCmd 0 0x0
  | .expand len => packCmd len 0x1
  | .decryptBlock len => packCmd len 0x2
  | .decryptBuf => packCmd 0 0x3

/-- One row of R82's table: a word is the row's when `(word & mask) = match`. -/
structure OpcodeRow where
  mnemonic : String
  matchWord : Word
  mask : Word
  deriving DecidableEq, Repr

/-- R82's table, in its order. -/
def opcodeTable : List OpcodeRow :=
  [⟨"NOP", 0x00000000, 0xFFFFFFFF⟩,
   ⟨"EXPAND", 0x00000001, 0xFFFF00FF⟩,
   ⟨"DECRYPT_BLOCK", 0x00000002, 0xFFFF00FF⟩,
   ⟨"DECRYPT_BUF", 0x00000003, 0xFFFFFFFF⟩]

/-- "A word matches a row when `(word & mask) = match`" (R82). -/
def OpcodeRow.matchesWord (r : OpcodeRow) (w : Word) : Bool := w &&& r.mask = r.matchWord

/-- The row a command belongs to. -/
def Instr.row : Instr → OpcodeRow
  | .nop => ⟨"NOP", 0x00000000, 0xFFFFFFFF⟩
  | .expand _ => ⟨"EXPAND", 0x00000001, 0xFFFF00FF⟩
  | .decryptBlock _ => ⟨"DECRYPT_BLOCK", 0x00000002, 0xFFFF00FF⟩
  | .decryptBuf => ⟨"DECRYPT_BUF", 0x00000003, 0xFFFFFFFF⟩

/-- The command word whose bits are the low `nbits` bits of `w` and whose other bits are 0. -/
def tableWord (nbits w : Nat) : Word := BitVec.ofNat 32 (w % 2 ^ nbits)

/-- What the decoder reads from a row's word (numbered as spec/opcode_table.json numbers it). -/
def decodeTableWord (nbits w : Nat) : Option Instr := (decode (tableWord nbits w)).toOption

end Sys2Proof
end

