-- ==== Sys2Proof/Config.lean ====
section
/-!
DEFINITION. What an implementation fixes (the named parameters of 00_scope.md section 4) and the free
values, which nothing in the spec fixes.

`BUF_SIZE` and `WIN_BASE` are the fields of a plain-data record that State carries and no step changes
(log entry 3). `N_INST` is the number of engines of a `Platform` (Machine/Platform.lean). `LAT` is OPEN
and no rule depends on it (R238), so it is no parameter of the model.
-/

namespace Sys2Proof

/-- The named parameters of one engine (00_scope.md section 4, U15, U16). -/
structure Config where
  /-- `BUF_SIZE`, the number of bytes of the buffer RAM (R30). -/
  bufSize : Nat
  /-- `WIN_BASE`, where the platform puts the window (R53). -/
  winBase : Nat
  deriving DecidableEq, Repr

/-- The values the spec allows the parameters: `BUF_SIZE` a multiple of 16 with
`16 <= BUF_SIZE <= 0xF000` (00_scope.md section 4) and `WIN_BASE` aligned to 0x10000 (R53). -/
abbrev Config.Legal (c : Config) : Prop :=
  c.bufSize % 16 = 0 ∧ 16 ≤ c.bufSize ∧ c.bufSize ≤ 0xF000 ∧ c.winBase % 0x10000 = 0

/-- The reference value of `BUF_SIZE` (00_scope.md section 4). The spec gives no reference value of
`WIN_BASE`; 0 is a DESIGN CHOICE (log entry 3), and no effect depends on it (R53). -/
def Config.reference : Config := { bufSize := 4096, winBase := 0 }

/-- The unspecified byte of the n-th draw (10_state.md R30, 20_memory.md R61, 43_block_stream.md R175).
It has no body: no claim can rest on a particular value (log entry 4). DESIGN CHOICE: there is one sequence
for every engine and run, so the n-th draws of two engines of a platform are the same byte (log entry 18). -/
opaque Config.freeByte : Nat → Byte

end Sys2Proof
end

