-- ==== Sys2Proof/Machine/State.lean ====
section
/-!
DEFINITION. The state of one engine as plain data: the record of R20, whole, and beside it what the
model adds to run it (the configuration, the events still to come, the level of the reset input, the
last bus response and the counter of draws).
-/

namespace Sys2Proof.Machine

/-- The buffer RAM's contents: (address, byte) pairs, addresses strictly rising. An address that is not
listed is UNWRITTEN (R30), and no listed byte is UNWRITTEN, so equal contents are equal lists. -/
abbrev Memory := List Host.Cell

/-- One bus access of the host, as the platform delivers it: a bus address, a size in bytes and, for a
write, the value (R54, R180, R181). A size other than 4 is a bus error whatever the value. -/
inductive HostAccess where
  | rd (addr size : Nat)
  | wr (addr size : Nat) (v : Word)
  deriving DecidableEq, Repr

/-- One atomic event of an execution's total order (R62): a host access, the engine's turn (R179), or a
change of the platform's reset input (R230). -/
inductive Event where
  | host (a : HostAccess)
  | engine
  | resetAssert
  | resetRelease
  deriving DecidableEq, Repr

/-- What the bus answers to a host access. -/
inductive Response where
  /-- No access since reset. -/
  | none
  /-- The write was taken from the bus (whether or not it had an effect). -/
  | ack
  /-- The value of a read (R180). -/
  | data (v : Word)
  /-- `busErr()`: no data, no effect (R54). -/
  | busErr
  /-- The reset input was asserted, so the access was not accepted (R230). -/
  | notAccepted
  deriving DecidableEq, Repr

/-- The registers of the window map (R26), each array's register with its index. -/
inductive Reg where
  | cmd
  | status
  | bufOff
  | bufLen
  | key (i : Nat)
  | blk (i : Nat)
  | rk (i : Nat)
  | dbuf (i : Nat)
  | reserved
  deriving DecidableEq, Repr

/-- The errors a command may end with (R200; code 0 is no error). -/
inductive EngineError where
  | invalidKeyLength
  | invalidBlockLength
  | noSchedule
  | illegalCmd
  | bufRange
  deriving DecidableEq, Repr

/-- The engine state of R20 and the model's own fields. -/
structure State where
  /-- KEY[0..31] (R21). -/
  key : Vector Byte 32
  /-- BLK[0..15] (R22). -/
  blk : Block
  /-- BUF_OFF (R23). -/
  bufOff : Word
  /-- BUF_LEN (R23). -/
  bufLen : Word
  /-- RK[0..239] (R24). -/
  rk : Vector Byte 240
  /-- Schedule valid (R25). -/
  ksv : Bool
  /-- Nk of the schedule (R25). -/
  nk : BitVec 4
  /-- Nr of the schedule (R25). -/
  nr : BitVec 4
  /-- STATUS.BUSY (R27). -/
  busy : Bool
  /-- STATUS.DONE (R27). -/
  done : Bool
  /-- STATUS.ERR (R27). -/
  err : Bool
  /-- STATUS.OVR (R27). -/
  ovr : Bool
  /-- STATUS.ERRCODE (R27, R200). -/
  errcode : BitVec 4
  /-- The latched command, or NONE (R29). -/
  cur : Option Word
  /-- DBUF (R30). -/
  dbuf : Memory
  /-- Model's own: the parameters of this engine, which no step changes (log entry 3). -/
  cfg : Config
  /-- Model's own: the events still to come, the next first (log entry 1). -/
  events : List Event
  /-- Model's own: the level of the reset input (R230, log entry 7). -/
  resetAsserted : Bool
  /-- Model's own: the bus response to the last host access (log entry 5). -/
  resp : Response
  /-- Model's own: how many free bytes have been drawn (log entry 4). -/
  draws : Nat
  deriving DecidableEq, Repr

/-- Why a step stops. -/
inductive Fault where
  /-- Raised by the engine's completion step in a state with `busy = 1` and no latched command. R29 and
  R34 rule such a state out (Obligations.StepKeepsGoodStates), so no run from a good state reaches it. Safe: the
  model stops where the spec says nothing. -/
  | noCommandLatched
  deriving DecidableEq, Repr

/-- Why a command has no meaning. -/
inductive Refusal where
  /-- An arm of `exec` without a meaning. No arm raises it: all four commands are modelled. Safe. -/
  | notModelled (mnemonic : String)
  deriving DecidableEq, Repr

/-- Every item of state at its reset value (R230), the model's own fields as given. The spec leaves RK
unspecified after reset; zeros are a DESIGN CHOICE (log entry 2) and unobservable while `ksv = 0`. -/
def State.resetWith (cfg : Config) (events : List Event) (draws : Nat) : State where
  key := Vector.replicate 32 0
  blk := Vector.replicate 16 0
  bufOff := 0
  bufLen := 0
  rk := Vector.replicate 240 0
  ksv := false
  nk := 0
  nr := 0
  busy := false
  done := false
  err := false
  ovr := false
  errcode := 0
  cur := none
  dbuf := []
  cfg := cfg
  events := events
  resetAsserted := false
  resp := .none
  draws := draws

/-- The machine right after reset (R230), with the reference parameters, no event pending and nothing
drawn. That every engine counts its draws from 0 is a DESIGN CHOICE (log entries 4 and 18). -/
def State.reset : State := State.resetWith Config.reference [] 0

end Sys2Proof.Machine
end

