-- ==== Sys2Proof/Machine/Flags.lean ====
section
/-!
DEFINITION. The STATUS register: its read value (R27), its write-1-to-clear write (R28) and the error
codes (R200). The only flags are BUSY, DONE, ERR, OVR and KSV (R37); no command sets an arithmetic flag.
-/

namespace Sys2Proof.Machine

/-- The code of an error, as STATUS.ERRCODE records it (R200). -/
def EngineError.code : EngineError → BitVec 4
  | .invalidKeyLength => 1
  | .invalidBlockLength => 2
  | .noSchedule => 3
  | .illegalCmd => 4
  | .bufRange => 5

/-- What a read of STATUS returns: `{0[11:0], nk, nr, 0[2:0], ksv, errcode, ovr, err, done, busy}` (R27). -/
def statusWord (s : State) : Word :=
  (0#12 ++ s.nk ++ s.nr ++ 0#3 ++ BitVec.ofBool s.ksv ++ s.errcode ++ BitVec.ofBool s.ovr
    ++ BitVec.ofBool s.err ++ BitVec.ofBool s.done ++ BitVec.ofBool s.busy :
    BitVec (12 + 4 + 4 + 3 + 1 + 4 + 1 + 1 + 1 + 1))

/-- A host write of `v` to STATUS: bits 1, 2 and 3 clear DONE, ERR and OVR; all others are ignored (R28). -/
def writeStatus (v : Word) (s : State) : State :=
  { s with
    done := s.done && !v.getLsbD 1
    err := s.err && !v.getLsbD 2
    ovr := s.ovr && !v.getLsbD 3 }

end Sys2Proof.Machine
end

