-- ==== Sys2Proof/Machine/Ops.lean ====
section
/-!
DEFINITION. The named operations over the byte stores and the ways a command starts and ends: byte
packing (R31, R52), the buffer RAM (R9, R30), the byte arrays, acceptance (R183), completion without
error (R204), the error completion (R205, this hardware's only exception) and reset (R230).
-/

namespace Sys2Proof.Machine

/-! Packing between 32-bit words and bytes, little-endian and not switchable (R52). -/

/-- Byte `j` of a word: bits `[8j+7:8j]` (R31). -/
def byteOf (v : Word) (j : Nat) : Byte := v.extractLsb' (8 * j) 8

/-- The word of four bytes, lowest index first: `{b3, b2, b1, b0}` (R31). -/
def wordOf (b0 b1 b2 b3 : Byte) : Word := (b3 ++ b2 ++ b1 ++ b0 : BitVec (8 + 8 + 8 + 8))

/-! The byte arrays KEY, BLK and RK. -/

/-- Byte `k` of an array; the 0 beyond its end is never used by a rule. -/
def byteAt {n : Nat} (xs : Vector Byte n) (k : Nat) : Byte := if h : k < n then xs[k] else 0

/-- Word `i` of an array, `{xs[4i+3], xs[4i+2], xs[4i+1], xs[4i]}` (R31). -/
def wordAt {n : Nat} (xs : Vector Byte n) (i : Nat) : Word :=
  wordOf (byteAt xs (4 * i)) (byteAt xs (4 * i + 1)) (byteAt xs (4 * i + 2)) (byteAt xs (4 * i + 3))

/-- `xs[4i+j] <- v[8j+7:8j]` for j = 0..3 (R31, R182). -/
def putWord {n : Nat} (xs : Vector Byte n) (i : Nat) (v : Word) : Vector Byte n :=
  Vector.ofFn fun k => if k.val / 4 = i then byteOf v (k.val % 4) else xs[k]

/-- `xs[0, bs.length) <- bs`, the other bytes kept (R127). -/
def putPrefix {n : Nat} (xs : Vector Byte n) (bs : List Byte) : Vector Byte n :=
  Vector.ofFn fun k => bs[k.val]?.getD xs[k]

/-! The buffer RAM. -/

/-- `DBUF[a]`, or `none` where the byte is UNWRITTEN (R30). -/
def Memory.read : Memory → Nat → Option Byte
  | [], _ => none
  | (k, b) :: m, a => if a = k then some b else Memory.read m a

/-- `DBUF[a] <- b`, keeping the addresses strictly rising. -/
def Memory.write : Memory → Nat → Byte → Memory
  | [], a, b => [(a, b)]
  | (k, c) :: m, a, b =>
    if a < k then (a, b) :: (k, c) :: m
    else if a = k then (a, b) :: m
    else (k, c) :: Memory.write m a b

/-- `DBUF[a, a + bs.length) <- bs` (`MemWrite` of R9). -/
def Memory.writeBytes : Memory → Nat → List Byte → Memory
  | m, _, [] => m
  | m, a, b :: bs => Memory.writeBytes (Memory.write m a b) (a + 1) bs

/-- The canonical form: addresses strictly rising. -/
abbrev Memory.wf (m : Memory) : Prop := m.Pairwise fun x y => x.1 < y.1

/-- No byte is held beyond the end of the RAM. -/
abbrev Memory.within (m : Memory) (size : Nat) : Prop := ∀ x ∈ m, x.1 < size

/-! Free values. -/

/-- The draws number `d`, `d + 1`, ..., `d + n - 1`. -/
def freeBytes (d : Nat) : Nat → List Byte
  | 0 => []
  | n + 1 => Config.freeByte d :: freeBytes (d + 1) n

/-- A whole word of draws (R61). -/
def freeWord (d : Nat) : Word :=
  wordOf (Config.freeByte d) (Config.freeByte (d + 1)) (Config.freeByte (d + 2))
    (Config.freeByte (d + 3))

/-! How a command starts and ends. -/

/-- Command acceptance: `cur <- v`, `busy <- 1`, `done <- 0`, every word alike (R183). -/
def acceptCommand (v : Word) (s : State) : State :=
  { s with cur := some v, busy := true, done := false }

/-- `complete()`: the command in progress ends without error (R204). -/
def complete (s : State) : State :=
  { s with errcode := 0, done := true, busy := false, cur := none }

/-- `raise Error(code)`: the command in progress ends with an error. There is no trap entry, no saved
state, no vector and no mode change (R205), and so no return from one (R209). -/
def raiseError (e : EngineError) (s : State) : State :=
  { s with errcode := e.code, err := true, done := true, busy := false, cur := none }

/-- `ksv <- 0`, `nk <- 0`, `nr <- 0`: the schedule is invalidated (R125, R201). -/
def clearSchedule (s : State) : State := { s with ksv := false, nk := 0, nr := 0 }

/-- The reset input is released: every item of state takes its reset value and a command in progress is
abandoned (R230, R231). The parameters stay, the events go on, and draws are never repeated. -/
def releaseReset (s : State) : State := State.resetWith s.cfg s.events s.draws

end Sys2Proof.Machine
end

