-- ==== Sys2Proof/Machine/Operands.lean ====
section
/-!
DEFINITION. Where operands come from: the window map by which a host access names a register (R26, R53,
R54), and the operands of the commands (R83): the key bytes, the schedule, and the buffer with its
range check, its chunks and its blocks.
-/

namespace Sys2Proof.Machine

/-! The host interface. -/

/-- The byte offset in the window: the engine decodes only the low 16 bits of an address (R53). -/
def windowOffset (addr : Nat) : Nat := addr % 0x10000

/-- An access is accepted only when its size is 4 and its offset a multiple of 4 (R54). -/
def accessOk (addr size : Nat) : Bool := size = 4 && windowOffset addr % 4 = 0

/-- The window map (R26). Every offset it does not name is reserved. -/
def regAt (cfg : Config) (off : Nat) : Reg :=
  if off < 0x020 then
    if off = 0x000 then .cmd
    else if off = 0x004 then .status
    else if off = 0x008 then .bufOff
    else if off = 0x00C then .bufLen
    else .reserved
  else if off < 0x040 then .key ((off - 0x020) / 4)
  else if off < 0x050 then .blk ((off - 0x040) / 4)
  else if off < 0x100 then .reserved
  else if off < 0x1F0 then .rk ((off - 0x100) / 4)
  else if off < 0x1000 then .reserved
  else if off < 0x1000 + cfg.bufSize then .dbuf ((off - 0x1000) / 4)
  else .reserved

/-! Operands of the commands. -/

/-- The key lengths that exist on this hardware (R2, R6). -/
def legalKeyLength (len : Nat) : Bool := len = 16 || len = 24 || len = 32

/-- EXPAND's key, `KEY[0, L)` (R83, R126). -/
def keyOperand (len : Nat) (s : State) : List Byte := s.key.toList.take len

/-- The schedule the decryptions read, `RK[0, 16*(nr+1))` (R56). -/
def schedule (s : State) : List Byte := s.rk.toList.take (16 * (s.nr.toNat + 1))

/-- The buffer range check, on unbounded integers, tail included (R171). -/
def bufferInRange (s : State) : Bool := s.bufOff.toNat + s.bufLen.toNat ≤ s.cfg.bufSize

/-- The number of full chunks, `bufLen div 16` (R170). -/
def chunkCount (s : State) : Nat := s.bufLen.toNat / 16

/-- Every byte of `DBUF[a, a + n)` is written. -/
def Memory.allWritten (m : Memory) (a : Nat) : Nat → Bool
  | 0 => true
  | n + 1 => (Memory.read m a).isSome && Memory.allWritten m (a + 1) n

/-- `MemRead(a, 16)` of R9 as a block, or `none` when one of its bytes is UNWRITTEN (R175). -/
def Memory.readBlock (m : Memory) (a : Nat) : Option Block :=
  if Memory.allWritten m a 16 then
    some (Vector.ofFn fun k => (Memory.read m (a + k.val)).getD 0)
  else none

end Sys2Proof.Machine
end

