-- ==== Sys2Proof/Machine/Bus.lean ====
section
/-!
DEFINITION. The host's accesses to the window (44_control_and_access.md section 2): reads (R180), reads of
in-flight data (R61), writes (R181 to R186) and the bus error (R54).
-/

namespace Sys2Proof.Machine

/-! Reads. -/

/-- RKi through the readback window: word `i` of the schedule, 0 without a schedule or beyond it (R32). -/
def rkWord (s : State) (i : Nat) : Word :=
  if s.ksv && decide (4 * i < 16 * (s.nr.toNat + 1)) then wordAt s.rk i else 0

/-- Byte `a` of DBUF as a read sees it: an UNWRITTEN byte is the draw number `d` (R30). -/
def dbufByte (s : State) (a d : Nat) : Byte := (Memory.read s.dbuf a).getD (Config.freeByte d)

/-- DBUF word `i` (R180). -/
def dbufWord (s : State) (i : Nat) : Word :=
  wordOf (dbufByte s (4 * i) s.draws) (dbufByte s (4 * i + 1) (s.draws + 1))
    (dbufByte s (4 * i + 2) (s.draws + 2)) (dbufByte s (4 * i + 3) (s.draws + 3))

/-- The value of a register that is not in flight (R180). -/
def regValue (s : State) : Reg → Word
  | .cmd => 0
  | .status => statusWord s
  | .bufOff => s.bufOff
  | .bufLen => s.bufLen
  | .key i => wordAt s.key i
  | .blk i => wordAt s.blk i
  | .rk i => rkWord s i
  | .dbuf i => dbufWord s i
  | .reserved => 0

/-- DBUF word `i` overlaps `DBUF[bufOff, bufOff + 16*(bufLen div 16))` (R61); nothing overlaps an empty
buffer. -/
def overlapsBuffer (s : State) (i : Nat) : Bool :=
  decide (0 < chunkCount s) && decide (4 * i < s.bufOff.toNat + 16 * chunkCount s)
    && decide (s.bufOff.toNat < 4 * i + 4)

/-- The registers a latched word with this OP may write (R61): the OP alone decides, with BUF_OFF and
BUF_LEN, whether or not the command will end in error. -/
def mayWrite (s : State) (op : BitVec 4) : Reg → Bool
  | .blk _ => op = 0x2
  | .rk _ => op = 0x1
  | .dbuf i => op = 0x3 && overlapsBuffer s i
  | .cmd => false
  | .status => false
  | .bufOff => false
  | .bufLen => false
  | .key _ => false
  | .reserved => false

/-- A read of this register is a read of in-flight data (R61). -/
def inFlight (s : State) (r : Reg) : Bool :=
  s.busy &&
    match s.cur with
    | none => false
    | some v => mayWrite s (opField v) r

/-- A read of this register draws free bytes: it is in flight (R61) or holds an UNWRITTEN byte (R30). -/
def readDraws (s : State) (r : Reg) : Bool :=
  inFlight s r ||
    match r with
    | .dbuf i => !Memory.allWritten s.dbuf (4 * i) 4
    | _ => false

/-- The value a host read of this register returns (R180, R61). -/
def readValue (s : State) (r : Reg) : Word :=
  if inFlight s r then freeWord s.draws else regValue s r

/-- An accepted read: the bus answers with the value, and nothing else changes (R58, R180). No two
reads of one engine take a draw of the same number (R58, R61; log entries 4 and 18). -/
def readReg (r : Reg) (s : State) : State :=
  { s with
    resp := .data (readValue s r)
    draws := if readDraws s r then s.draws + 4 else s.draws }

/-! Writes. -/

/-- The store of an accepted write to an idle engine: a command (R183) or a data register (R182). -/
def storeReg (v : Word) (s : State) : Reg → State
  | .cmd => acceptCommand v s
  | .bufOff => { s with bufOff := v }
  | .bufLen => { s with bufLen := v }
  | .key i => { s with key := putWord s.key i v }
  | .blk i => { s with blk := putWord s.blk i v }
  | .dbuf i =>
    { s with
      dbuf := Memory.writeBytes s.dbuf (4 * i) [byteOf v 0, byteOf v 1, byteOf v 2, byteOf v 3] }
  | .status => s
  | .rk _ => s
  | .reserved => s

/-- A write that the engine drops while BUSY: it sets OVR and changes nothing else (R186). -/
def dropWrite (s : State) : State := { s with ovr := true }

/-- The registers a host write may store to (R181); RK and the reserved offsets ignore it (R184). -/
def Reg.writable : Reg → Bool
  | .cmd => true
  | .status => false
  | .bufOff => true
  | .bufLen => true
  | .key _ => true
  | .blk _ => true
  | .rk _ => false
  | .dbuf _ => true
  | .reserved => false

/-- The effect of an accepted write of `v` on the engine (R181). -/
def writeEffect (v : Word) (r : Reg) (s : State) : State :=
  if r = .status then writeStatus v s
  else if r.writable = false then s
  else if s.busy then dropWrite s
  else storeReg v s r

/-- An accepted write, acknowledged on the bus. -/
def writeReg (v : Word) (r : Reg) (s : State) : State := { writeEffect v r s with resp := .ack }

/-! One access. -/

/-- `busErr()`: no state of the engine changes (R54). -/
def busError (s : State) : State := { s with resp := .busErr }

/-- The host's turn: one access (R180, R181). While reset is asserted none is accepted (R230). -/
def hostAccess (a : HostAccess) (s : State) : State :=
  if s.resetAsserted then { s with resp := .notAccepted }
  else
    match a with
    | .rd addr size =>
      if accessOk addr size then readReg (regAt s.cfg (windowOffset addr)) s else busError s
    | .wr addr size v =>
      if accessOk addr size then writeReg v (regAt s.cfg (windowOffset addr)) s else busError s

end Sys2Proof.Machine
end

