-- ==== Sys2Proof/Machine/InvCipher.lean ====
section
/-!
DEFINITION. The inverse-cipher pipeline (42_inverse_cipher.md): the datapath units as pure functions
(R140 to R146), the block function (R147), the unfused reference (R148) and DECRYPT_BLOCK (R150).
-/

namespace Sys2Proof.Machine

/-- Where InvShiftRows takes byte `k` from: with `r = k mod 4` and `c = k div 4`, byte
`r + 4*((c - r) mod 4)` (R141). -/
def shiftSource (k : Nat) : Nat := k % 4 + 4 * ((k / 4 + 4 - k % 4) % 4)

/-- InvShiftRows (R141), the reference permutation. -/
def isr (s : Block) : Block := Vector.ofFn fun k => byteAt s (shiftSource k.val)

/-- InvSubBytes (R142), the reference substitution. -/
def isb (s : Block) : Block := Vector.ofFn fun k => invSbox (byteAt s k.val)

/-- Row `r` of InvMixColumns on one column (R143). -/
def invMixByte (r : Nat) (a0 a1 a2 a3 : Byte) : Byte :=
  match r with
  | 0 => mulE a0 ^^^ mulB a1 ^^^ mulD a2 ^^^ mul9 a3
  | 1 => mul9 a0 ^^^ mulE a1 ^^^ mulB a2 ^^^ mulD a3
  | 2 => mulD a0 ^^^ mul9 a1 ^^^ mulE a2 ^^^ mulB a3
  | _ => mulB a0 ^^^ mulD a1 ^^^ mul9 a2 ^^^ mulE a3

/-- InvMixColumns (R143): byte `4c + r` from the four bytes of column `c`. -/
def imc (s : Block) : Block := Vector.ofFn fun k =>
  invMixByte (k.val % 4) (byteAt s (4 * (k.val / 4))) (byteAt s (4 * (k.val / 4) + 1))
    (byteAt s (4 * (k.val / 4) + 2)) (byteAt s (4 * (k.val / 4) + 3))

/-- The fused InvShiftRows and InvSubBytes pass (R144). -/
def isrsb (s : Block) : Block := Vector.ofFn fun k => invSbox (byteAt s (shiftSource k.val))

/-- The fused InvMixColumns, InvSubBytes and InvShiftRows pass (R145): the combinations first, then the
substituted bytes into their shifted places. -/
def imcsbsr (s : Block) : Block :=
  let m := imc s
  Vector.ofFn fun k => invSbox (byteAt m (shiftSource k.val))

/-- AddRoundKey with round key `i`, bytes `[16i, 16i+16)` of the schedule (R146). -/
def ark (s : Block) (r : List Byte) (i : Nat) : Block :=
  Vector.ofFn fun k => s[k] ^^^ r.getD (16 * i + k.val) 0

/-- Step 3 of R147: the rounds from `n - 1` down to 0, each AddRoundKey and, but for round 0, the fused
pass. -/
def invRounds (r : List Byte) : Nat → Block → Block
  | 0, s => s
  | n + 1, s =>
    let t := ark s r n
    if n ≠ 0 then invRounds r n (imcsbsr t) else t

/-- `InvCipher(R, Nr, in)` in the source's order (R147). -/
def invCipher (r : List Byte) (nr : Nat) (block : Block) : Block :=
  invRounds r nr (isrsb (ark block r nr))

/-- The loop of R148's textbook cipher: rounds `n` down to 1. -/
def textbookRounds (r : List Byte) : Nat → Block → Block
  | 0, s => s
  | n + 1, s => textbookRounds r n (imc (ark (isb (isr s)) r (n + 1)))

/-- The unfused reference algorithm (R148). -/
def textbookInvCipher (r : List Byte) (nr : Nat) (block : Block) : Block :=
  ark (isb (isr (textbookRounds r (nr - 1) (ark block r nr)))) r 0

/-- The block function under the state's schedule (R150, R170). -/
def decryptWith (s : State) (block : Block) : Block :=
  invCipher (schedule s) s.nr.toNat block

/-- DECRYPT_BLOCK (R150): the length first, then the schedule (R208). -/
def execDecryptBlock (len : Nat) (s : State) : Host.Outcome State Fault Refusal :=
  if len ≠ 16 then .next (raiseError .invalidBlockLength s)
  else if s.ksv = false then .next (raiseError .noSchedule s)
  else .next (complete { s with blk := decryptWith s s.blk })

end Sys2Proof.Machine
end

