-- ==== Sys2Proof/Machine/BlockStream.lean ====
section
/-!
DEFINITION. The block-stream operation (43_block_stream.md): DECRYPT_BUF (R170), its chunks (R172), its
tail (R173) and its UNWRITTEN input bytes (R175).
-/

namespace Sys2Proof.Machine

/-- One chunk at `a`: its block decrypted in place (R172), or 16 draws when a byte of it is UNWRITTEN
(R175). The pair is the RAM and the number of draws so far. -/
def decryptChunk (f : Block → Block) (a : Nat) (md : Memory × Nat) : Memory × Nat :=
  match Memory.readBlock md.1 a with
  | some b => (Memory.writeBytes md.1 a (f b).toList, md.2)
  | none => (Memory.writeBytes md.1 a (freeBytes md.2 16), md.2 + 16)

/-- The `n` chunks from address `a` on, in increasing order (R170). -/
def decryptChunks (f : Block → Block) : Nat → Nat → Memory × Nat → Memory × Nat
  | 0, _, md => md
  | n + 1, a, md => decryptChunks f n (a + 16) (decryptChunk f a md)

/-- The buffer decrypted under the state's schedule; nothing but DBUF and the draws changes (R170). -/
def decryptBuffer (s : State) : State :=
  let md := decryptChunks (decryptWith s) (chunkCount s) s.bufOff.toNat (s.dbuf, s.draws)
  { s with dbuf := md.1, draws := md.2 }

/-- DECRYPT_BUF (R170): the schedule first, then the range (R208); both before any access. -/
def execDecryptBuf (s : State) : Host.Outcome State Fault Refusal :=
  if s.ksv = false then .next (raiseError .noSchedule s)
  else if bufferInRange s = false then .next (raiseError .bufRange s)
  else .next (complete (decryptBuffer s))

end Sys2Proof.Machine
end

