-- ==== Sys2Proof/Machine/Control.lean ====
section
/-!
DEFINITION. NOP (R189) and the completion of an illegal command word (R84, R203).
-/

namespace Sys2Proof.Machine

/-- NOP: do nothing and complete (R189). -/
def execNop (s : State) : Host.Outcome State Fault Refusal := .next (complete s)

/-- An illegal word completes with ILLEGAL_CMD and no other effect (R84, R203). -/
def execIllegal (s : State) : Host.Outcome State Fault Refusal := .next (raiseError .illegalCmd s)

end Sys2Proof.Machine
end

