-- ==== Sys2Proof/Machine/KeySchedule.lean ====
section
/-!
DEFINITION. The KeySchedule expander (41_key_schedule.md): the pure expansion function (R120 to R124) and
the EXPAND command (R125).
-/

namespace Sys2Proof.Machine

/-- Four consecutive bytes of a key or a schedule, in byte order; `b0` is the "first byte" (R120). -/
structure KeyWord where
  b0 : Byte
  b1 : Byte
  b2 : Byte
  b3 : Byte
  deriving DecidableEq, Repr

/-- `a ^ b` on words is bytewise (R120). -/
def KeyWord.xor (a b : KeyWord) : KeyWord :=
  { b0 := a.b0 ^^^ b.b0, b1 := a.b1 ^^^ b.b1, b2 := a.b2 ^^^ b.b2, b3 := a.b3 ^^^ b.b3 }

/-- The bytes of a word in order (R120). -/
def KeyWord.bytes (w : KeyWord) : List Byte := [w.b0, w.b1, w.b2, w.b3]

/-- `RotWord`: the first byte moves to the last place (R123). -/
def rotWord (w : KeyWord) : KeyWord := { b0 := w.b1, b1 := w.b2, b2 := w.b3, b3 := w.b0 }

/-- `SubWord`: SBox on each byte (R123). -/
def subWord (w : KeyWord) : KeyWord :=
  { b0 := sbox w.b0, b1 := sbox w.b1, b2 := sbox w.b2, b3 := sbox w.b3 }

/-- "XOR the first byte with RCon[idx/Nk]" (R122). -/
def xorRcon (w : KeyWord) (i : Nat) : KeyWord := { w with b0 := w.b0 ^^^ rcon i }

/-- `word(s, i) = s[4i, 4i+4)` (R120). -/
def keyWordAt (bs : List Byte) (i : Nat) : KeyWord :=
  { b0 := bs.getD (4 * i) 0, b1 := bs.getD (4 * i + 1) 0,
    b2 := bs.getD (4 * i + 2) 0, b3 := bs.getD (4 * i + 3) 0 }

/-- The word of a list of words; the zero word beyond its end is never used (R124). -/
def wordIn (ws : List KeyWord) (i : Nat) : KeyWord :=
  ws.getD i { b0 := 0, b1 := 0, b2 := 0, b3 := 0 }

/-- What step 2 of R122 does to `temp` at index `idx`. -/
def transformTemp (nk idx : Nat) (temp : KeyWord) : KeyWord :=
  if idx % nk = 0 then xorRcon (subWord (rotWord temp)) (idx / nk)
  else if 6 < nk ∧ idx % nk = 4 then subWord temp
  else temp

/-- Step 2 of R122 for `n` more words, in increasing `idx` (the number of words so far). -/
def expandWords (nk : Nat) : Nat → List KeyWord → List KeyWord
  | 0, ws => ws
  | n + 1, ws =>
    let idx := ws.length
    let temp := transformTemp nk idx (wordIn ws (idx - 1))
    expandWords nk n (ws ++ [(wordIn ws (idx - nk)).xor temp])

/-- `Nk = L / 4` (R6). -/
def keyWords (len : Nat) : Nat := len / 4

/-- `Nr = Nk + 6` (R6). -/
def rounds (len : Nat) : Nat := keyWords len + 6

/-- `Expand(K)`: the schedule of `16*(Nr+1)` bytes (R122). -/
def expandKey (k : List Byte) : List Byte :=
  let nk := keyWords k.length
  let first := (List.range nk).map (keyWordAt k)
  (expandWords nk (4 * (rounds k.length + 1) - nk) first).flatMap KeyWord.bytes

/-- A successful EXPAND's effect: the schedule is written, the rest of RK kept, and described (R127). -/
def installSchedule (len : Nat) (s : State) : State :=
  { s with
    rk := putPrefix s.rk (expandKey (keyOperand len s))
    ksv := true
    nk := BitVec.ofNat 4 (keyWords len)
    nr := BitVec.ofNat 4 (rounds len) }

/-- EXPAND (R125). The length is checked before any other effect. -/
def execExpand (len : Nat) (s : State) : Host.Outcome State Fault Refusal :=
  if legalKeyLength len then .next (complete (installSchedule len s))
  else .next (raiseError .invalidKeyLength (clearSchedule s))

end Sys2Proof.Machine
end

