-- ==== Sys2Proof/Machine/Dispatch.lean ====
section
/-!
DEFINITION. The dispatch of R188: one arm per command, each a direct call of its meaning.
-/

namespace Sys2Proof.Machine

def exec (i : Instr) (s : State) : Host.Outcome State Fault Refusal :=
  match i with
  | .nop => Sys2Proof.Machine.execNop s
  | .expand len => Sys2Proof.Machine.execExpand len s
  | .decryptBlock len => Sys2Proof.Machine.execDecryptBlock len s
  | .decryptBuf => Sys2Proof.Machine.execDecryptBuf s

end Sys2Proof.Machine
end

