-- ==== Sys2Proof/Machine/Engine.lean ====
section
/-!
DEFINITION. The agents' turns (R179): the engine's completion step (R188), the reset input (R230), and one
event of the total order (R62).
-/

namespace Sys2Proof.Machine

/-- `ENGINE_STEP` (R188): decode and run the latched command. R29 says a busy engine has one; a state
without it is stuck under a name of its own. -/
def engineStep (s : State) : Host.Outcome State Fault Refusal :=
  match s.cur with
  | none => .fault .noCommandLatched
  | some v =>
    match decode v with
    | .ok i => exec i s
    | .error _ => execIllegal s

/-- The engine step is enabled exactly when `busy = 1` (R179); an engine held in reset takes none (R231). -/
def engineEnabled (s : State) : Bool := s.busy && !s.resetAsserted

/-- The engine's turn: its step when enabled, else nothing (R217). -/
def engineTurn (s : State) : Host.Outcome State Fault Refusal :=
  if engineEnabled s then engineStep s else .next s

/-- The platform releases the reset input (R230); a release of an input that is not asserted is none. -/
def resetReleaseTurn (s : State) : State := if s.resetAsserted then releaseReset s else s

/-- One event, taken off the list (R62). -/
def takeEvent (e : Event) (s : State) : Host.Outcome State Fault Refusal :=
  match e with
  | .host a => .next (hostAccess a s)
  | .engine => engineTurn s
  | .resetAssert => .next { s with resetAsserted := true }
  | .resetRelease => .next (resetReleaseTurn s)

/-- The next event; when the host and the platform are quiet the engine takes its turn, which is the
fairness of R179. -/
def nextEvent (s : State) : Host.Outcome State Fault Refusal :=
  match s.events with
  | [] => engineTurn s
  | e :: rest => takeEvent e { s with events := rest }

/-- `s` with a command word latched and the engine's turn next: what a CMD write of an idle engine leaves
(R183), before the engine's turn (log entry 6). -/
def latchCommand (v : Word) (s : State) : State :=
  { acceptCommand v s with events := .engine :: s.events, resetAsserted := false }

end Sys2Proof.Machine
end

