-- ==== Sys2Proof/Machine/Step.lean ====
section
/-!
DEFINITION. One step of the machine: one atomic event (R62), and where a command word comes from: the
latched command `cur`, since the engine fetches no instructions (R36).
-/

namespace Sys2Proof.Machine

/-- One step: the next event of the total order of host accesses and engine completions (R62). -/
def step (s : State) : Host.Outcome State Fault Refusal := nextEvent s

/-- `s` with the word latched, so that the very next step decodes and runs it. -/
def State.withFetchWord (s : State) (nbits w : Nat) : State := latchCommand (tableWord nbits w) s

end Sys2Proof.Machine
end

