-- ==== Sys2Proof/Machine/Platform.lean ====
section
/-!
DEFINITION. A platform of `N_INST` engines (R215): each has its own window and its own copy of every item
of state; the constant tables are shared ROM and no state.
-/

namespace Sys2Proof.Machine

/-- The engines of a platform; `N_INST` is their number. -/
abbrev Platform := List State

/-- At least one engine, each with legal parameters and a window of its own (R215, R53). -/
abbrev Platform.wf (p : Platform) : Prop :=
  1 ≤ p.length ∧ (∀ s ∈ p, s.cfg.Legal) ∧ p.Pairwise fun s t => s.cfg.winBase ≠ t.cfg.winBase

/-- The engine whose window an address lies in: "the platform tells them apart by window address" (R215). -/
def Platform.route (p : Platform) (addr : Nat) : Option Nat :=
  p.findIdx? fun s => s.cfg.winBase = addr - windowOffset addr

/-- One step of engine `i`; the others stand still. An index of no engine does nothing. DESIGN CHOICE: each
engine counts its own draws from the one sequence `Config.freeByte`, so the n-th draws of two engines are the
same byte; R215 leaves open how they relate (log entry 18). -/
def Platform.stepAt (p : Platform) (i : Nat) : Host.Outcome Platform Fault Refusal :=
  match p[i]? with
  | none => .next p
  | some s =>
    match step s with
    | .next t => .next (p.set i t)
    | .fault f => .fault f
    | .refused r => .refused r

end Sys2Proof.Machine
end

