-- ==== Sys2Proof/Safety.lean ====
section
/-!
DEFINITION. What a good state is: the invariants of R34, the canonical form of DBUF and the legal
parameters. A run is safe when every state of it is good; a step from a good state never stops.
-/

namespace Sys2Proof.Machine

/-- R34, item 1: `busy = 1` if and only if `cur` is not NONE (R29). -/
abbrev State.latchInv (s : State) : Prop := s.busy = s.cur.isSome

/-- R34, item 2: `ksv = 0` implies `nk = 0` and `nr = 0` (R25). -/
abbrev State.noScheduleInv (s : State) : Prop := s.ksv = false → s.nk = 0 ∧ s.nr = 0

/-- R34, item 3: `ksv = 1` implies `nk` in {4, 6, 8}, `nr = nk + 6`, and RK holds the expansion of a
`4*nk`-byte key. That key stands in the schedule itself, as its first `4*nk` bytes (R124). -/
abbrev State.scheduleInv (s : State) : Prop :=
  s.ksv = true →
    (s.nk = 4 ∨ s.nk = 6 ∨ s.nk = 8) ∧ s.nr.toNat = s.nk.toNat + 6 ∧
      schedule s = expandKey (s.rk.toList.take (4 * s.nk.toNat))

/-- R34, item 4: `errcode` is a code of R200; 6 to 15 are never produced (U13). -/
abbrev State.errcodeInv (s : State) : Prop := s.errcode.toNat ≤ 5

/-- DBUF is in its canonical form and holds no byte beyond its end (R30). -/
abbrev State.bufferInv (s : State) : Prop := s.dbuf.wf ∧ s.dbuf.within s.cfg.bufSize

/-- A good state. -/
structure State.Good (s : State) : Prop where
  latch : s.latchInv
  noSchedule : s.noScheduleInv
  schedule : s.scheduleInv
  errcode : s.errcodeInv
  buffer : s.bufferInv
  config : s.cfg.Legal

/-! The vocabulary of the claims. -/

/-- It is the engine's turn and its step is enabled: what a completion needs (R179). -/
abbrev State.EngineNext (s : State) : Prop :=
  (s.busy = true ∧ s.resetAsserted = false) ∧ (s.events = [] ∨ s.events.head? = some .engine)

/-- The host's access `a` is next, and the engine is not held in reset. -/
abbrev State.HostNext (s : State) (a : HostAccess) : Prop :=
  s.events.head? = some (.host a) ∧ s.resetAsserted = false

/-- The state a turn acts on: the event taken is off the list. -/
abbrev State.afterEvent (s : State) : State := { s with events := s.events.tail }

/-- A word that matches no row of R82: OP in 0x4 .. 0xF, a reserved bit not zero, or a LEN where none is
allowed (R84). -/
def IllegalWord (v : Word) : Prop :=
  4 ≤ (v.extractLsb' 0 4).toNat ∨ v.extractLsb' 4 4 ≠ 0 ∨ v.extractLsb' 16 16 ≠ 0 ∨
    ((v.extractLsb' 0 4 = 0 ∨ v.extractLsb' 0 4 = 3) ∧ v.extractLsb' 8 8 ≠ 0)

/-- The word at this offset is one the latched command may write (R61): BLK0..BLK3 for OP 0x2, RK0..RK59
for OP 0x1, and for OP 0x3 a DBUF word one of whose bytes lies in
`DBUF[bufOff, bufOff + 16*(bufLen div 16))`. -/
def State.InFlightAt (s : State) (off : Nat) : Prop :=
  s.busy = true ∧ ∃ v, s.cur = some v ∧
    ((v.extractLsb' 0 4 = 2 ∧ 0x040 ≤ off ∧ off < 0x050) ∨
      (v.extractLsb' 0 4 = 1 ∧ 0x100 ≤ off ∧ off < 0x1F0) ∨
      (v.extractLsb' 0 4 = 3 ∧ 0x1000 ≤ off ∧ off < 0x1000 + s.cfg.bufSize ∧
        ∃ j < 4, s.bufOff.toNat ≤ off - 0x1000 + j ∧
          off - 0x1000 + j < s.bufOff.toNat + 16 * (s.bufLen.toNat / 16)))

/-- The offsets whose writes a busy engine drops: CMD, BUF_OFF, BUF_LEN, KEYi, BLKi and the DBUF words
(R186). -/
def WritableOffset (cfg : Config) (off : Nat) : Prop :=
  off = 0x000 ∨ off = 0x008 ∨ off = 0x00C ∨ (0x020 ≤ off ∧ off < 0x050) ∨
    (0x1000 ≤ off ∧ off < 0x1000 + cfg.bufSize)

/-- The offsets the window map marks reserved (R26). -/
def ReservedOffset (cfg : Config) (off : Nat) : Prop :=
  (0x010 ≤ off ∧ off < 0x020) ∨ (0x050 ≤ off ∧ off < 0x100) ∨ (0x1F0 ≤ off ∧ off < 0x1000) ∨
    (0x1000 + cfg.bufSize ≤ off ∧ off < 0x10000)

/-- The schedule a decryption reads, `RK[0, 16*(nr+1))` (R147). -/
abbrev State.roundKeys (s : State) : List Byte := s.rk.toList.take (16 * (s.nr.toNat + 1))

/-- The 16 bytes of DBUF from `a` on are written and are the block `b`. -/
def Memory.HoldsBlock (m : Memory) (a : Nat) (b : Block) : Prop :=
  ∀ j < 16, Memory.read m (a + j) = some (byteAt b j)

end Sys2Proof.Machine
end

