-- ==== Sys2Proof/Certificates/Slice0/Obligations.lean ====
section
/-!
DEFINITION. The statements for the provers. Each docstring names the rule it formalises; OBLIGATIONS.json
lists them. `State.EngineNext`, `State.HostNext`, `State.afterEvent` and the other words used here stand in
Safety.lean.
-/

open Sys2Proof
open Sys2Proof.Machine

/-! Encoding (30_encoding.md). -/

/-- The canonical words of 30_encoding.md section 3 and the illegal words of its section 4. -/
def Obligations.CanonicalWordsDecode : Prop :=
  decode 0x00001001 = .ok (.expand 16) ∧ decode 0x00001801 = .ok (.expand 24) ∧
  decode 0x00002001 = .ok (.expand 32) ∧ decode 0x00001002 = .ok (.decryptBlock 16) ∧
  decode 0x00000003 = .ok .decryptBuf ∧ decode 0x00000000 = .ok .nop ∧
  decode 0x00000004 = .error .reservedOp ∧ decode 0x00000010 = .error .rsv0NotZero ∧
  decode 0x00010000 = .error .rsv1NotZero ∧ decode 0x00000100 = .error .lenNotZero ∧
  decode 0x00000103 = .error .lenNotZero

/-- Decode and encode agree on every well-formed command, with LEN at every value it has. -/
def Obligations.DecodeOfEncodeIsTheCommand : Prop :=
  ∀ i : Instr, i.wellFormed = true → decode (encode i) = .ok i

/-- A legal word has one meaning: encoding what it decodes to gives the word back, and what it decodes to
is well formed. -/
def Obligations.EncodeOfDecodeIsTheWord : Prop :=
  ∀ (w : Word) (i : Instr), decode w = .ok i → encode i = w ∧ i.wellFormed = true

/-- R82: which words select which command, by match under mask, and that at most one row matches a word. -/
def Obligations.OpcodeTableSelectsTheCommand : Prop :=
  (∀ (w : Word) (i : Instr), decode w = .ok i ↔
    (w &&& 0xFFFFFFFF = 0x00000000 ∧ i = .nop) ∨
    (w &&& 0xFFFF00FF = 0x00000001 ∧ i = .expand (w.toNat / 256 % 256)) ∨
    (w &&& 0xFFFF00FF = 0x00000002 ∧ i = .decryptBlock (w.toNat / 256 % 256)) ∨
    (w &&& 0xFFFFFFFF = 0x00000003 ∧ i = .decryptBuf)) ∧
  (∀ w : Word, ∀ r ∈ opcodeTable, ∀ r' ∈ opcodeTable,
    r.matchesWord w = true → r'.matchesWord w = true → r = r')

/-- R203 (and R84): an illegal word completes with ILLEGAL_CMD and changes nothing but STATUS. -/
def Obligations.IllegalWordsCompleteWithIllegalCmd : Prop :=
  ∀ (s : State) (v : Word), s.EngineNext → s.cur = some v → IllegalWord v →
    step s = .next { s.afterEvent with
      errcode := 4, err := true, done := true, busy := false, cur := none }

/-! The engine's step (44_control_and_access.md, 60_exceptions.md). -/

/-- When the latched word decodes to a command, the engine's turn is that command's `exec`; taking the
turn off the list of events is all the step adds. The word `withFetchWord` latches is run likewise. -/
def Obligations.StepRunsTheDecodedCommand : Prop :=
  (∀ (s : State) (v : Word) (i : Instr), s.EngineNext → s.cur = some v → decode v = .ok i →
    step s = exec i s.afterEvent) ∧
  (∀ (s : State) (i : Instr), i.wellFormed = true →
    step (s.withFetchWord 32 (encode i).toNat) = exec i { s with
      cur := some (encode i), busy := true, done := false, resetAsserted := false })

/-- R179: the engine's step is enabled exactly when `busy = 1`. An idle engine's turn does nothing but
take the event; a busy engine's turn ends the command, unless the reset input holds it (the model's
reading of R231, log entry 7). -/
def Obligations.EngineStepEnabledExactlyWhenBusy : Prop :=
  (∀ s : State, s.busy = false → s.events = [] → step s = .next s) ∧
  (∀ s : State, s.busy = false → s.events.head? = some .engine → step s = .next s.afterEvent) ∧
  (∀ s : State, s.Good → s.EngineNext → ∃ t, step s = .next t ∧ t.busy = false)

/-- R204: `complete()` sets ERRCODE 0 and DONE, clears BUSY and `cur`, and leaves ERR and OVR. -/
def Obligations.CompletionWithoutErrorSetsStatus : Prop :=
  ∀ s t : State, s.EngineNext → step s = .next t → t.errcode = 0 →
    t.done = true ∧ t.busy = false ∧ t.cur = none ∧ t.err = s.err ∧ t.ovr = s.ovr

/-- R205: an error sets ERR and DONE, clears BUSY and `cur`, and changes no data: the one other change is
the schedule's invalidation, on INVALID_KEY_LENGTH. -/
def Obligations.ErrorsArePrecise : Prop :=
  ∀ s t : State, s.EngineNext → step s = .next t → t.errcode ≠ 0 →
    t.err = true ∧ t.done = true ∧ t.busy = false ∧ t.cur = none ∧ t.ovr = s.ovr ∧
    t.key = s.key ∧ t.blk = s.blk ∧ t.rk = s.rk ∧ t.dbuf = s.dbuf ∧
    t.bufOff = s.bufOff ∧ t.bufLen = s.bufLen ∧ t.cfg = s.cfg ∧ t.draws = s.draws ∧ t.resp = s.resp ∧
    t.resetAsserted = s.resetAsserted ∧
    (t.errcode = 1 → t.ksv = false ∧ t.nk = 0 ∧ t.nr = 0) ∧
    (t.errcode ≠ 1 → t.ksv = s.ksv ∧ t.nk = s.nk ∧ t.nr = s.nr)

/-- R208: one code per command, the first that applies in the order of the rule; 0 when none applies. -/
def Obligations.ErrorCodeIsTheFirstThatApplies : Prop :=
  ∀ (s t : State) (v : Word), s.EngineNext → s.cur = some v → step s = .next t →
    (IllegalWord v → t.errcode = 4) ∧
    (¬ IllegalWord v →
      (v.extractLsb' 0 4 = 0 → t.errcode = 0) ∧
      (v.extractLsb' 0 4 = 1 → t.errcode =
        if v.extractLsb' 8 8 = 16 ∨ v.extractLsb' 8 8 = 24 ∨ v.extractLsb' 8 8 = 32 then 0 else 1) ∧
      (v.extractLsb' 0 4 = 2 → t.errcode =
        if v.extractLsb' 8 8 ≠ 16 then 2 else if s.ksv = false then 3 else 0) ∧
      (v.extractLsb' 0 4 = 3 → t.errcode =
        if s.ksv = false then 3
        else if s.cfg.bufSize < s.bufOff.toNat + s.bufLen.toNat then 5 else 0))

/-! What each command does. -/

/-- R189: NOP completes, resetting ERRCODE and leaving the sticky ERR, and changes nothing else. -/
def Obligations.NopCompletes : Prop :=
  ∀ s : State, exec .nop s = .next { s with errcode := 0, done := true, busy := false, cur := none }

/-- R127 and R125's success path: EXPAND of a legal length completes, writes the expansion of
`KEY[0, L)` to `RK[0, 16*(Nr+1))`, keeps the rest of RK, and describes the schedule. -/
def Obligations.ExpandInstallsTheSchedule : Prop :=
  ∀ (s : State) (len : Nat), len = 16 ∨ len = 24 ∨ len = 32 →
    ∃ t, exec (.expand len) s = .next t ∧
      (∀ k < 16 * (len / 4 + 7), byteAt t.rk k = (expandKey (s.key.toList.take len)).getD k 0) ∧
      (∀ k, 16 * (len / 4 + 7) ≤ k → byteAt t.rk k = byteAt s.rk k) ∧
      t.ksv = true ∧ t.nk.toNat = len / 4 ∧ t.nr.toNat = len / 4 + 6 ∧
      t.errcode = 0 ∧ t.done = true ∧ t.busy = false ∧ t.cur = none

/-- R201: EXPAND of any other length writes no RK byte, clears KSV, NK and NR and ends with code 1; no
decryption then uses a schedule until an EXPAND of a legal length makes one. -/
def Obligations.ExpandOfABadLengthInvalidatesTheSchedule : Prop :=
  (∀ (s : State) (len : Nat), ¬ (len = 16 ∨ len = 24 ∨ len = 32) →
    exec (.expand len) s = .next { s with
      ksv := false, nk := 0, nr := 0,
      errcode := 1, err := true, done := true, busy := false, cur := none }) ∧
  (∀ t : State, t.ksv = false →
    (∃ u, exec (.decryptBlock 16) t = .next u ∧ u.errcode = 3 ∧ u.blk = t.blk) ∧
    (∃ u, exec .decryptBuf t = .next u ∧ u.errcode = 3 ∧ u.dbuf = t.dbuf)) ∧
  (∀ t u : State, t.ksv = false → step t = .next u → u.ksv = true →
    t.EngineNext ∧ ∃ v len, t.cur = some v ∧ decode v = .ok (.expand len) ∧
      (len = 16 ∨ len = 24 ∨ len = 32))

/-- R150's success path: DECRYPT_BLOCK with LEN 16 and a valid schedule decrypts BLK in place; nothing
but BLK and the completion's STATUS fields changes. -/
def Obligations.DecryptBlockDecryptsInPlace : Prop :=
  ∀ s : State, s.ksv = true →
    exec (.decryptBlock 16) s = .next { s with
      blk := invCipher s.roundKeys s.nr.toNat s.blk,
      errcode := 0, done := true, busy := false, cur := none }

/-- R202: DECRYPT_BLOCK of another length ends with code 2, schedule or not; BLK and the schedule stay. -/
def Obligations.DecryptBlockRejectsOtherLengths : Prop :=
  ∀ (s : State) (len : Nat), len ≠ 16 →
    exec (.decryptBlock len) s = .next { s with
      errcode := 2, err := true, done := true, busy := false, cur := none }

/-- R206: without a schedule, which is the case after reset and after a failed EXPAND, both decryptions end
with code 3 and change neither BLK nor DBUF. -/
def Obligations.DecryptionsNeedASchedule : Prop :=
  (∀ s : State, s.ksv = false → ∀ i, (i = .decryptBlock 16 ∨ i = .decryptBuf) →
    exec i s = .next { s with
      errcode := 3, err := true, done := true, busy := false, cur := none }) ∧
  State.reset.ksv = false ∧
  (∀ (s t : State) (len : Nat), exec (.expand len) s = .next t → t.errcode ≠ 0 → t.ksv = false)

/-- R207 with R171: a buffer that does not lie inside DBUF, the sum unbounded and the tail included, ends
with code 5 and leaves DBUF; any other buffer raises nothing, at any alignment. -/
def Obligations.DecryptBufChecksTheRange : Prop :=
  ∀ s : State, s.ksv = true →
    (s.cfg.bufSize < s.bufOff.toNat + s.bufLen.toNat →
      exec .decryptBuf s = .next { s with
        errcode := 5, err := true, done := true, busy := false, cur := none }) ∧
    (s.bufOff.toNat + s.bufLen.toNat ≤ s.cfg.bufSize →
      ∃ t, exec .decryptBuf s = .next t ∧ t.errcode = 0 ∧ t.err = s.err)

/-- R172 and R175: DECRYPT_BUF completes. Each full chunk whose bytes are written becomes `InvCipher` of
its own old bytes; a chunk with an UNWRITTEN byte becomes written, all 16 bytes of it, with values of which
nothing is stated (the model's draws, log entry 4). -/
def Obligations.DecryptBufDecryptsEveryFullChunk : Prop :=
  ∀ s : State, s.ksv = true → s.bufOff.toNat + s.bufLen.toNat ≤ s.cfg.bufSize →
    ∃ t, exec .decryptBuf s = .next t ∧
      t.errcode = 0 ∧ t.done = true ∧ t.busy = false ∧ t.cur = none ∧
      ∀ k < s.bufLen.toNat / 16,
        (∀ b : Block, Memory.HoldsBlock s.dbuf (s.bufOff.toNat + 16 * k) b →
          Memory.HoldsBlock t.dbuf (s.bufOff.toNat + 16 * k) (invCipher s.roundKeys s.nr.toNat b)) ∧
        ((∃ j < 16, Memory.read s.dbuf (s.bufOff.toNat + 16 * k + j) = none) →
          ∀ j < 16, (Memory.read t.dbuf (s.bufOff.toNat + 16 * k + j)).isSome)

/-- R173: the tail and every DBUF byte outside the buffer are not written (and stay UNWRITTEN if they were),
and not read: what they hold changes nothing inside the chunks. Of the bytes of a chunk with an UNWRITTEN byte,
which R175 leaves unspecified, nothing is said. -/
def Obligations.DecryptBufLeavesTheTailAlone : Prop :=
  (∀ (s t : State) (a : Nat), exec .decryptBuf s = .next t →
    a < s.bufOff.toNat ∨ s.bufOff.toNat + 16 * (s.bufLen.toNat / 16) ≤ a →
    Memory.read t.dbuf a = Memory.read s.dbuf a) ∧
  (∀ (s t u : State) (m : Memory),
    (∀ a, s.bufOff.toNat ≤ a → a < s.bufOff.toNat + 16 * (s.bufLen.toNat / 16) →
      Memory.read m a = Memory.read s.dbuf a) →
    exec .decryptBuf s = .next t → exec .decryptBuf { s with dbuf := m } = .next u →
    ∀ k < s.bufLen.toNat / 16,
      (∀ j < 16, (Memory.read s.dbuf (s.bufOff.toNat + 16 * k + j)).isSome) →
      ∀ j < 16, Memory.read u.dbuf (s.bufOff.toNat + 16 * k + j) =
        Memory.read t.dbuf (s.bufOff.toNat + 16 * k + j))

/-- R174: no chaining. The new value of a chunk depends on its own old value and the schedule only: two
chunks of two buffers with equal bytes under equal schedules become equal, and DECRYPT_BLOCK gives the
same 16 bytes. A buffer of two chunks becomes the two results in order. -/
def Obligations.NoChaining : Prop :=
  (∀ (s t s' t' : State) (k k' : Nat) (b c c' : Block),
    exec .decryptBuf s = .next t → exec .decryptBuf s' = .next t' → t.errcode = 0 → t'.errcode = 0 →
    s.nr = s'.nr → s.roundKeys = s'.roundKeys →
    k < s.bufLen.toNat / 16 → k' < s'.bufLen.toNat / 16 →
    Memory.HoldsBlock s.dbuf (s.bufOff.toNat + 16 * k) b →
    Memory.HoldsBlock s'.dbuf (s'.bufOff.toNat + 16 * k') b →
    Memory.HoldsBlock t.dbuf (s.bufOff.toNat + 16 * k) c →
    Memory.HoldsBlock t'.dbuf (s'.bufOff.toNat + 16 * k') c' → c = c') ∧
  (∀ (s t u : State) (k : Nat),
    exec .decryptBuf s = .next t → t.errcode = 0 → k < s.bufLen.toNat / 16 →
    Memory.HoldsBlock s.dbuf (s.bufOff.toNat + 16 * k) s.blk →
    exec (.decryptBlock 16) s = .next u →
    Memory.HoldsBlock t.dbuf (s.bufOff.toNat + 16 * k) u.blk) ∧
  (∀ (s t : State) (b1 b2 : Block),
    exec .decryptBuf s = .next t → t.errcode = 0 → s.bufLen = 32 →
    Memory.HoldsBlock s.dbuf s.bufOff.toNat b1 → Memory.HoldsBlock s.dbuf (s.bufOff.toNat + 16) b2 →
    Memory.HoldsBlock t.dbuf s.bufOff.toNat (invCipher s.roundKeys s.nr.toNat b1) ∧
    Memory.HoldsBlock t.dbuf (s.bufOff.toNat + 16) (invCipher s.roundKeys s.nr.toNat b2))

/-- R56: what each command writes, and that it writes nothing else: the frame of all four. -/
def Obligations.CommandsWriteOnlyTheirTargets : Prop :=
  ∀ (i : Instr) (s t : State), exec i s = .next t →
    t.key = s.key ∧ t.bufOff = s.bufOff ∧ t.bufLen = s.bufLen ∧ t.ovr = s.ovr ∧ t.cfg = s.cfg ∧
    t.events = s.events ∧ t.resetAsserted = s.resetAsserted ∧ t.resp = s.resp ∧
    ((∀ len, i ≠ .expand len) → t.rk = s.rk ∧ t.ksv = s.ksv ∧ t.nk = s.nk ∧ t.nr = s.nr) ∧
    ((∀ len, i ≠ .decryptBlock len) → t.blk = s.blk) ∧
    (i ≠ .decryptBuf → t.draws = s.draws ∧ ∀ a, Memory.read t.dbuf a = Memory.read s.dbuf a) ∧
    (∀ a, a < s.bufOff.toNat ∨ s.bufOff.toNat + 16 * (s.bufLen.toNat / 16) ≤ a →
      Memory.read t.dbuf a = Memory.read s.dbuf a)

/-- R126: EXPAND reads exactly `KEY[0, L)`; what the other key bytes hold changes nothing it does. -/
def Obligations.ExpandReadsOnlyItsKeyBytes : Prop :=
  ∀ (s t : State) (len : Nat) (k : Vector Byte 32),
    (∀ i < len, byteAt k i = byteAt s.key i) → exec (.expand len) s = .next t →
    exec (.expand len) { s with key := k } = .next { t with key := k }

/-- R151: DECRYPT_BLOCK is a function of BLK and the schedule, and EXPAND of equal key bytes reproduces
the schedule. -/
def Obligations.DecryptBlockIsPure : Prop :=
  (∀ s s' t t' : State, s.ksv = true → s'.ksv = true → s.blk = s'.blk → s.nr = s'.nr →
    s.roundKeys = s'.roundKeys →
    exec (.decryptBlock 16) s = .next t → exec (.decryptBlock 16) s' = .next t' → t.blk = t'.blk) ∧
  (∀ (s s' t t' : State) (len : Nat), len = 16 ∨ len = 24 ∨ len = 32 →
    s.key.toList.take len = s'.key.toList.take len →
    exec (.expand len) s = .next t → exec (.expand len) s' = .next t' →
    t.nr = t'.nr ∧ t.roundKeys = t'.roundKeys)

/-! The datapath (42_inverse_cipher.md). -/

/-- R141: InvShiftRows rotates row `r` right by `r`; as a permutation it is the rule's list, and row 0 is
unchanged. -/
def Obligations.InvShiftRowsIsTheRulesPermutation : Prop :=
  ∀ s : Block,
    (∀ r < 4, ∀ c < 4, byteAt (isr s) (r + 4 * c) = byteAt s (r + 4 * ((c + 4 - r) % 4))) ∧
    isr s = #v[s[0], s[13], s[10], s[7], s[4], s[1], s[14], s[11],
               s[8], s[5], s[2], s[15], s[12], s[9], s[6], s[3]] ∧
    (∀ c < 4, byteAt (isr s) (4 * c) = byteAt s (4 * c))

/-- R142: InvSubBytes is bytewise, so it commutes with any byte permutation, InvShiftRows among them. -/
def Obligations.InvSubBytesCommutesWithPermutations : Prop :=
  (∀ (s : Block) (k : Fin 16), (isb s)[k] = invSbox s[k]) ∧
  (∀ (s : Block) (p : Fin 16 → Fin 16),
    isb (Vector.ofFn fun k => s[p k]) = Vector.ofFn fun k => (isb s)[p k]) ∧
  (∀ s : Block, isb (isr s) = isr (isb s))

/-- R143: each column is multiplied by the coefficient rows (0E, 0B, 0D, 09) and its rotations. -/
def Obligations.InvMixColumnsByTheCoefficientRows : Prop :=
  ∀ (s : Block), ∀ c < 4,
    let a0 := byteAt s (4 * c)
    let a1 := byteAt s (4 * c + 1)
    let a2 := byteAt s (4 * c + 2)
    let a3 := byteAt s (4 * c + 3)
    byteAt (imc s) (4 * c) = mulE a0 ^^^ mulB a1 ^^^ mulD a2 ^^^ mul9 a3 ∧
    byteAt (imc s) (4 * c + 1) = mul9 a0 ^^^ mulE a1 ^^^ mulB a2 ^^^ mulD a3 ∧
    byteAt (imc s) (4 * c + 2) = mulD a0 ^^^ mul9 a1 ^^^ mulE a2 ^^^ mulB a3 ∧
    byteAt (imc s) (4 * c + 3) = mulB a0 ^^^ mulD a1 ^^^ mul9 a2 ^^^ mulE a3

/-- R144: the fused InvShiftRows and InvSubBytes unit is the two steps, in either order. -/
def Obligations.FusedShiftSubIsTheTwoSteps : Prop :=
  ∀ s : Block,
    (∀ r < 4, ∀ c < 4,
      byteAt (isrsb s) (r + 4 * c) = invSbox (byteAt s (r + 4 * ((c + 4 - r) % 4)))) ∧
    isrsb s = isb (isr s) ∧ isrsb s = isr (isb s)

/-- R145: the fused InvMixColumns unit mixes first, then substitutes and shifts; the first two do not
commute. -/
def Obligations.FusedMixIsMixThenShiftSub : Prop :=
  (∀ s : Block,
    (∀ r < 4, ∀ c < 4,
      byteAt (imcsbsr s) (r + 4 * c) = invSbox (byteAt (imc s) (r + 4 * ((c + 4 - r) % 4)))) ∧
    imcsbsr s = isrsb (imc s) ∧ imcsbsr s = isr (isb (imc s))) ∧
  (∃ s : Block, isb (imc s) ≠ imc (isb s))

/-- R146: AddRoundKey XORs round key `i`, schedule bytes `[16i, 16i+16)`, and is its own inverse. -/
def Obligations.AddRoundKeyIsItsOwnInverse : Prop :=
  ∀ (s : Block) (r : List Byte) (i : Nat),
    (∀ k < 16, byteAt (ark s r i) k = byteAt s k ^^^ r.getD (16 * i + k) 0) ∧
    ark (ark s r i) r i = s

/-- R148: the fused block function equals the textbook inverse cipher, for every schedule and block and
every number of rounds (a round count of 0 is none of this hardware, R6). -/
def Obligations.InvCipherEqualsTheUnfusedReference : Prop :=
  ∀ (r : List Byte) (nr : Nat) (block : Block), 1 ≤ nr →
    invCipher r nr block = textbookInvCipher r nr block

/-! Tables and field arithmetic (40_tables_gf.md). -/

/-- R103: `xtime` and `gmul` as the rule computes them, their laws and the rule's worked examples. -/
def Obligations.GmulIsFieldMultiplication : Prop :=
  (∀ b : Byte, xtime b = (if b.getLsbD 7 then (b <<< 1) ^^^ 0x1B else b <<< 1)) ∧
  (∀ a b : Byte, gmul a b =
    (List.range 8).foldl (fun r i => if b.getLsbD i then r ^^^ xtime^[i] a else r) 0x00) ∧
  (∀ a b : Byte, gmul a b = gmul b a) ∧
  (∀ a b c : Byte, gmul a (b ^^^ c) = gmul a b ^^^ gmul a c) ∧
  (∀ a b c : Byte, gmul (a ^^^ b) c = gmul a c ^^^ gmul b c) ∧
  (∀ a : Byte, gmul a 0x01 = a ∧ gmul a 0x00 = 0x00) ∧
  gmul 0x57 0x83 = 0xC1 ∧ gmul 0x57 0x13 = 0xFE ∧ xtime 0x57 = 0xAE ∧ xtime 0x80 = 0x1B

/-- R104: the four printed multiplication tables are `gmul` by their constant, and the rule's sums of
doublings. -/
def Obligations.MulTablesAreFieldMultiplication : Prop :=
  ∀ x : Byte,
    mul9 x = gmul 0x09 x ∧ mulB x = gmul 0x0B x ∧ mulD x = gmul 0x0D x ∧ mulE x = gmul 0x0E x ∧
    mul9 x = xtime (xtime (xtime x)) ^^^ x ∧
    mulB x = xtime (xtime (xtime x)) ^^^ xtime x ^^^ x ∧
    mulD x = xtime (xtime (xtime x)) ^^^ xtime (xtime x) ^^^ x ∧
    mulE x = xtime (xtime (xtime x)) ^^^ xtime (xtime x) ^^^ xtime x

/-- R106: the printed SBox is the affine map of the multiplicative inverse, a permutation, with the rule's
check values. -/
def Obligations.SboxIsTheAffineImageOfTheInverse : Prop :=
  (∀ (b : Byte) (i : Nat), i < 8 → (sboxAffine b).getLsbD i =
    (b.getLsbD i ^^ b.getLsbD ((i + 4) % 8) ^^ b.getLsbD ((i + 5) % 8) ^^ b.getLsbD ((i + 6) % 8) ^^
      b.getLsbD ((i + 7) % 8) ^^ (0x63 : Byte).getLsbD i)) ∧
  sbox 0x00 = sboxAffine 0x00 ∧
  (∀ x : Byte, x ≠ 0x00 → ∃ y : Byte, gmul x y = 0x01 ∧ (∀ z, gmul x z = 0x01 → z = y) ∧
    sbox x = sboxAffine y) ∧
  (∀ x y : Byte, sbox x = sbox y → x = y) ∧
  sbox 0x00 = 0x63 ∧ sbox 0x53 = 0xED ∧ sbox 0xFF = 0x16

/-- R107: InvSBox and SBox are inverse permutations, with the rule's check values. -/
def Obligations.InvSboxInvertsSbox : Prop :=
  (∀ x : Byte, invSbox (sbox x) = x ∧ sbox (invSbox x) = x) ∧
  invSbox 0x63 = 0x00 ∧ invSbox 0xED = 0x53 ∧ invSbox 0x00 = 0x52

/-- R108: RCon's entries are the powers of x. The expander's transform reads RCon at the multiples of Nk only,
at the indices 1..10, 1..8 and 1..7 for the three key sizes, each of them and no other; at every other word
index its result is given without RCon. -/
def Obligations.RconHoldsThePowersOfX : Prop :=
  rconTable = [0x00, 0x01, 0x02, 0x04, 0x08, 0x10, 0x20, 0x40, 0x80, 0x1b, 0x36] ∧
  rconTable.length = 11 ∧ rcon 0 = 0x00 ∧ rcon 1 = 0x01 ∧
  (∀ i, 1 ≤ i → i < 10 → rcon (i + 1) = xtime (rcon i)) ∧
  (∀ (nk last : Nat) (w : KeyWord), (nk = 4 ∧ last = 10) ∨ (nk = 6 ∧ last = 8) ∨ (nk = 8 ∧ last = 7) →
    (∀ idx, nk ≤ idx → idx < 4 * (nk + 6 + 1) →
      (idx % nk = 0 → ∃ j, 1 ≤ j ∧ j ≤ last ∧ idx = nk * j ∧
        transformTemp nk idx w = xorRcon (subWord (rotWord w)) j) ∧
      (idx % nk ≠ 0 → transformTemp nk idx w = if nk > 6 ∧ idx % nk = 4 then subWord w else w)) ∧
    (∀ j, 1 ≤ j → j ≤ last → nk ≤ nk * j ∧ nk * j < 4 * (nk + 6 + 1))) ∧
  (∀ (w : KeyWord) (j : Nat), xorRcon w j = { w with b0 := w.b0 ^^^ rcon j })

/-! Key expansion (41_key_schedule.md). -/

/-- R122: the schedule's words satisfy the rule's recurrence, which settles every one of them: the first
Nk words are the key's, and word `idx` is word `idx - Nk` XOR the transformed word `idx - 1`. -/
def Obligations.ExpansionSatisfiesTheRecurrence : Prop :=
  ∀ k : List Byte, k.length = 16 ∨ k.length = 24 ∨ k.length = 32 →
    let nk := k.length / 4
    let w := keyWordAt (expandKey k)
    (expandKey k).length = 16 * (nk + 6 + 1) ∧
    (∀ i < nk, w i = keyWordAt k i) ∧
    ∀ idx, nk ≤ idx → idx < 4 * (nk + 6 + 1) →
      w idx = (w (idx - nk)).xor
        (if idx % nk = 0 then
          { b0 := sbox (w (idx - 1)).b1 ^^^ rcon (idx / nk), b1 := sbox (w (idx - 1)).b2,
            b2 := sbox (w (idx - 1)).b3, b3 := sbox (w (idx - 1)).b0 }
        else if nk > 6 ∧ idx % nk = 4 then
          { b0 := sbox (w (idx - 1)).b0, b1 := sbox (w (idx - 1)).b1,
            b2 := sbox (w (idx - 1)).b2, b3 := sbox (w (idx - 1)).b3 }
        else w (idx - 1))

/-! Host accesses (10_state.md, 20_memory.md, 44_control_and_access.md). What the bus answers stands in the
model's field `resp` (log entry 5); a statement about a write says nothing of it. -/

/-- R53: the engine decodes only the low 16 bits of an address, so the window works at every aligned base. -/
def Obligations.AddressDecodesItsLow16Bits : Prop :=
  ∀ (s : State) (base off size : Nat) (v : Word), base % 0x10000 = 0 →
    hostAccess (.rd (base + off) size) s = hostAccess (.rd off size) s ∧
    hostAccess (.wr (base + off) size v) s = hostAccess (.wr off size v) s

/-- R54: an access that is not 4 bytes wide or not aligned gets a bus error, changes no engine state and
returns no data; an accepted access to a reserved offset reads 0 and its write is ignored. -/
def Obligations.OnlyAlignedWordAccessesAreAccepted : Prop :=
  (∀ (s : State) (addr size : Nat) (v : Word), size ≠ 4 ∨ addr % 4 ≠ 0 →
    (s.HostNext (.rd addr size) → step s = .next { s.afterEvent with resp := .busErr }) ∧
    (s.HostNext (.wr addr size v) → step s = .next { s.afterEvent with resp := .busErr })) ∧
  (∀ (s : State) (addr : Nat) (v : Word), addr % 4 = 0 → ReservedOffset s.cfg (addr % 0x10000) →
    (s.HostNext (.rd addr 4) → step s = .next { s.afterEvent with resp := .data 0 }) ∧
    (s.HostNext (.wr addr 4 v) → step s = .next { s.afterEvent with resp := .ack }))

/-- R28: a STATUS write clears DONE, ERR and OVR where the written bit is 1 and does nothing else, busy or
idle. -/
def Obligations.StatusWriteClearsTheWrittenBits : Prop :=
  ∀ (s : State) (addr : Nat) (v : Word), s.HostNext (.wr addr 4 v) → addr % 0x10000 = 0x004 →
    ∃ r, step s = .next { s.afterEvent with
      done := if v.getLsbD 1 then false else s.done
      err := if v.getLsbD 2 then false else s.err
      ovr := if v.getLsbD 3 then false else s.ovr
      resp := r }

/-- R183: a CMD write to an idle engine latches the word, legal or not, sets BUSY, clears DONE and changes
nothing else. -/
def Obligations.CommandWriteIsAccepted : Prop :=
  ∀ (s : State) (addr : Nat) (v : Word), s.HostNext (.wr addr 4 v) → addr % 0x10000 = 0x000 →
    s.busy = false →
    ∃ r, step s = .next { s.afterEvent with cur := some v, busy := true, done := false, resp := r }

/-- R186: while a command runs, a write to CMD, BUF_OFF, BUF_LEN, KEYi, BLKi or a DBUF word is dropped and
sets OVR, and nothing else; a second command is not queued. -/
def Obligations.WritesWhileBusyAreDropped : Prop :=
  ∀ (s : State) (addr : Nat) (v : Word), s.HostNext (.wr addr 4 v) → addr % 4 = 0 →
    WritableOffset s.cfg (addr % 0x10000) → s.busy = true →
    ∃ r, step s = .next { s.afterEvent with ovr := true, resp := r }

/-- R184: writes to RK0..RK59 and to the reserved offsets are ignored, busy or idle, and never set OVR. -/
def Obligations.ReadOnlyAndReservedWritesAreIgnored : Prop :=
  ∀ (s : State) (addr : Nat) (v : Word), s.HostNext (.wr addr 4 v) → addr % 4 = 0 →
    (0x100 ≤ addr % 0x10000 ∧ addr % 0x10000 < 0x1F0) ∨ ReservedOffset s.cfg (addr % 0x10000) →
    ∃ r, step s = .next { s.afterEvent with resp := r }

/-- R182: a data-register write to an idle engine stores its four bytes, little-endian, and nothing else;
the four bytes of a DBUF word are no longer UNWRITTEN. -/
def Obligations.IdleDataWriteStoresFourBytes : Prop :=
  ∀ (s : State) (addr : Nat) (v : Word), s.HostNext (.wr addr 4 v) → s.busy = false →
    (addr % 0x10000 = 0x008 → ∃ r, step s = .next { s.afterEvent with bufOff := v, resp := r }) ∧
    (addr % 0x10000 = 0x00C → ∃ r, step s = .next { s.afterEvent with bufLen := v, resp := r }) ∧
    (∀ i < 8, addr % 0x10000 = 0x020 + 4 * i →
      ∃ key r, step s = .next { s.afterEvent with key := key, resp := r } ∧
        ∀ k < 32, byteAt key k =
          if k / 4 = i then v.extractLsb' (8 * (k % 4)) 8 else byteAt s.key k) ∧
    (∀ i < 4, addr % 0x10000 = 0x040 + 4 * i →
      ∃ blk r, step s = .next { s.afterEvent with blk := blk, resp := r } ∧
        ∀ k < 16, byteAt blk k =
          if k / 4 = i then v.extractLsb' (8 * (k % 4)) 8 else byteAt s.blk k) ∧
    (∀ i, 4 * i < s.cfg.bufSize → addr % 0x10000 = 0x1000 + 4 * i →
      ∃ m r, step s = .next { s.afterEvent with dbuf := m, resp := r } ∧
        ∀ a, Memory.read m a =
          if a / 4 = i then some (v.extractLsb' (8 * (a % 4)) 8) else Memory.read s.dbuf a)

/-- R180 (with R32 for RK): what a read that is not in flight returns, register by register, and that it
changes no state of the engine. An UNWRITTEN byte of a DBUF word reads as anything. -/
def Obligations.HostReadReturnsTheRegister : Prop :=
  ∀ (s : State) (addr off : Nat), s.HostNext (.rd addr 4) → off = addr % 0x10000 → addr % 4 = 0 →
    ¬ s.InFlightAt off →
    ∃ v d, step s = .next { s.afterEvent with resp := .data v, draws := d } ∧
      (off = 0x000 → v = 0) ∧
      (off = 0x004 → v = statusWord s) ∧
      (off = 0x008 → v = s.bufOff) ∧
      (off = 0x00C → v = s.bufLen) ∧
      (∀ i < 8, off = 0x020 + 4 * i →
        ∀ j < 4, v.extractLsb' (8 * j) 8 = byteAt s.key (4 * i + j)) ∧
      (∀ i < 4, off = 0x040 + 4 * i →
        ∀ j < 4, v.extractLsb' (8 * j) 8 = byteAt s.blk (4 * i + j)) ∧
      (∀ i < 60, off = 0x100 + 4 * i →
        (s.ksv = false ∨ 16 * (s.nr.toNat + 1) ≤ 4 * i → v = 0) ∧
        (s.ksv = true → 4 * i < 16 * (s.nr.toNat + 1) →
          ∀ j < 4, v.extractLsb' (8 * j) 8 = byteAt s.rk (4 * i + j))) ∧
      (∀ i, 4 * i < s.cfg.bufSize → off = 0x1000 + 4 * i →
        ∀ j < 4, ∀ b, Memory.read s.dbuf (4 * i + j) = some b → v.extractLsb' (8 * j) 8 = b) ∧
      (ReservedOffset s.cfg off → v = 0)

/-- R27: where a read of STATUS has each field, and that the other bits read 0. -/
def Obligations.StatusReadHasTheFields : Prop :=
  ∀ s : State,
    (statusWord s).getLsbD 0 = s.busy ∧ (statusWord s).getLsbD 1 = s.done ∧
    (statusWord s).getLsbD 2 = s.err ∧ (statusWord s).getLsbD 3 = s.ovr ∧
    (statusWord s).extractLsb' 4 4 = s.errcode ∧ (statusWord s).getLsbD 8 = s.ksv ∧
    (statusWord s).extractLsb' 9 3 = 0 ∧ (statusWord s).extractLsb' 12 4 = s.nr ∧
    (statusWord s).extractLsb' 16 4 = s.nk ∧ (statusWord s).extractLsb' 20 12 = 0

/-- R61: a read of in-flight data is answered with a draw and changes no state of the engine. The form of the
draw is the model's choice (log entry 4): four free bytes from the counter on, of whose values nothing is
stated, and the counter passes them, so that no later draw of this engine has their numbers. -/
def Obligations.InFlightReadsAreDraws : Prop :=
  ∀ (s : State) (addr : Nat), s.HostNext (.rd addr 4) → addr % 4 = 0 →
    s.InFlightAt (addr % 0x10000) →
    step s = .next { s.afterEvent with resp := .data (freeWord s.draws), draws := s.draws + 4 } ∧
    freeWord s.draws = wordOf (Config.freeByte s.draws) (Config.freeByte (s.draws + 1))
      (Config.freeByte (s.draws + 2)) (Config.freeByte (s.draws + 3))

/-- R31: a word written to KEYi, BLKi, BUF_OFF, BUF_LEN or a DBUF word of an idle engine is what the next
read of that register returns. -/
def Obligations.WriteThenReadBack : Prop :=
  ∀ (s : State) (off : Nat) (v : Word) (rest : List Event),
    s.events = .host (.wr off 4 v) :: .host (.rd off 4) :: rest →
    s.resetAsserted = false → s.busy = false → s.cfg.Legal → off % 4 = 0 →
    off ≠ 0 → WritableOffset s.cfg off →
    ∃ t u, step s = .next t ∧ step t = .next u ∧ u.resp = .data v

/-- R235: the first STATUS read after a CMD write sees BUSY = 1, or, if the engine has had its turn,
DONE = 1 with BUSY = 0; no delay is needed. -/
def Obligations.FirstStatusReadSeesBusyOrDone : Prop :=
  (∀ (s : State) (w : Word) (rest : List Event),
    s.events = .host (.wr 0x000 4 w) :: .host (.rd 0x004 4) :: rest →
    s.resetAsserted = false → s.busy = false →
    ∃ t u v, step s = .next t ∧ step t = .next u ∧ u.resp = .data v ∧ v.getLsbD 0 = true) ∧
  (∀ (s : State) (w : Word) (rest : List Event),
    s.events = .host (.wr 0x000 4 w) :: .engine :: .host (.rd 0x004 4) :: rest →
    s.resetAsserted = false → s.busy = false →
    ∃ t u x v, step s = .next t ∧ step t = .next u ∧ step u = .next x ∧ x.resp = .data v ∧
      v.getLsbD 0 = false ∧ v.getLsbD 1 = true)

/-! Whole-machine rules. -/

/-- R24, R25, R65: the schedule is a snapshot. RK, KSV, NK and NR change only in the engine's completion of
an EXPAND or at a reset; no host write, to KEY or anywhere, changes them. -/
def Obligations.ScheduleChangesOnlyByExpandOrReset : Prop :=
  ∀ s t : State, step s = .next t →
    (t.rk ≠ s.rk ∨ t.ksv ≠ s.ksv ∨ t.nk ≠ s.nk ∨ t.nr ≠ s.nr) →
    (s.EngineNext ∧ ∃ v len, s.cur = some v ∧ decode v = .ok (.expand len)) ∨
    (s.events.head? = some .resetRelease ∧ s.resetAsserted = true)

/-- R21, R22, R23, R30, byte by byte, outside a reset (which gives every one its reset value, see
ResetGivesEveryItemItsValue): KEY, BUF_OFF and BUF_LEN are written by the host only, each at its own offset
while the engine is idle; BLK by the host at its own offset and by a successful DECRYPT_BLOCK; DBUF by the host
at the word's own offset and by a successful DECRYPT_BUF, in its full chunks. -/
def Obligations.OperandsChangeOnlyByTheirWriters : Prop :=
  ∀ s t : State, step s = .next t →
    ¬ (s.events.head? = some .resetRelease ∧ s.resetAsserted = true) →
    (∀ k, byteAt t.key k ≠ byteAt s.key k →
      s.busy = false ∧ ∃ addr v, s.HostNext (.wr addr 4 v) ∧
        k < 32 ∧ addr % 0x10000 = 0x020 + 4 * (k / 4)) ∧
    (t.bufOff ≠ s.bufOff →
      s.busy = false ∧ ∃ addr, s.HostNext (.wr addr 4 t.bufOff) ∧ addr % 0x10000 = 0x008) ∧
    (t.bufLen ≠ s.bufLen →
      s.busy = false ∧ ∃ addr, s.HostNext (.wr addr 4 t.bufLen) ∧ addr % 0x10000 = 0x00C) ∧
    (∀ k, byteAt t.blk k ≠ byteAt s.blk k →
      (s.busy = false ∧ ∃ addr v, s.HostNext (.wr addr 4 v) ∧
        k < 16 ∧ addr % 0x10000 = 0x040 + 4 * (k / 4)) ∨
      (s.EngineNext ∧ s.ksv = true ∧ s.cur = some 0x00001002)) ∧
    (∀ a, Memory.read t.dbuf a ≠ Memory.read s.dbuf a →
      (s.busy = false ∧ ∃ addr v, s.HostNext (.wr addr 4 v) ∧
        4 * (a / 4) < s.cfg.bufSize ∧ addr % 0x10000 = 0x1000 + 4 * (a / 4)) ∨
      (s.EngineNext ∧ s.ksv = true ∧ s.cur = some 0x00000003 ∧
        s.bufOff.toNat + s.bufLen.toNat ≤ s.cfg.bufSize ∧
        s.bufOff.toNat ≤ a ∧ a < s.bufOff.toNat + 16 * (s.bufLen.toNat / 16)))

/-- R27: ERRCODE, KSV, NR and NK change only at a command's completion and at reset; BUSY goes from 1 to 0
only there too. -/
def Obligations.CompletionFieldsChangeOnlyAtCompletionOrReset : Prop :=
  ∀ s t : State, step s = .next t →
    (t.errcode ≠ s.errcode ∨ t.ksv ≠ s.ksv ∨ t.nr ≠ s.nr ∨ t.nk ≠ s.nk ∨
      (s.busy = true ∧ t.busy = false)) →
    s.EngineNext ∨ (s.events.head? = some .resetRelease ∧ s.resetAsserted = true)

/-- R27: ERR and OVR are sticky. Each is cleared only by a STATUS write with a 1 in its bit or by reset;
ERR is set only by a completion with an error, OVR only by a write dropped because BUSY = 1. -/
def Obligations.ErrAndOvrAreSticky : Prop :=
  ∀ s t : State, step s = .next t →
    (s.err = true → t.err = false →
      (∃ addr v, s.HostNext (.wr addr 4 v) ∧ addr % 0x10000 = 0x004 ∧ v.getLsbD 2 = true) ∨
      (s.events.head? = some .resetRelease ∧ s.resetAsserted = true)) ∧
    (s.ovr = true → t.ovr = false →
      (∃ addr v, s.HostNext (.wr addr 4 v) ∧ addr % 0x10000 = 0x004 ∧ v.getLsbD 3 = true) ∨
      (s.events.head? = some .resetRelease ∧ s.resetAsserted = true)) ∧
    (s.err = false → t.err = true → s.EngineNext ∧ t.errcode ≠ 0) ∧
    (s.ovr = false → t.ovr = true → s.busy = true ∧
      ∃ addr v, s.HostNext (.wr addr 4 v) ∧ WritableOffset s.cfg (addr % 0x10000))

/-- R27: BUSY rises only at a command's acceptance, a CMD write to an idle engine, and falls only at a
completion or a reset. DONE rises only at a completion, and falls only at an acceptance, at a STATUS write with
a 1 in bit 1, or at a reset. -/
def Obligations.BusyAndDoneChangeOnlyByTheirCauses : Prop :=
  ∀ s t : State, step s = .next t →
    (s.busy = false → t.busy = true →
      ∃ addr v, s.HostNext (.wr addr 4 v) ∧ addr % 0x10000 = 0x000 ∧ t.cur = some v) ∧
    (s.busy = true → t.busy = false →
      s.EngineNext ∨ (s.events.head? = some .resetRelease ∧ s.resetAsserted = true)) ∧
    (s.done = false → t.done = true → s.EngineNext) ∧
    (s.done = true → t.done = false →
      (s.busy = false ∧ ∃ addr v, s.HostNext (.wr addr 4 v) ∧ addr % 0x10000 = 0x000 ∧
        t.busy = true) ∨
      (∃ addr v, s.HostNext (.wr addr 4 v) ∧ addr % 0x10000 = 0x004 ∧ v.getLsbD 1 = true) ∨
      (s.events.head? = some .resetRelease ∧ s.resetAsserted = true))

/-- R32 with U3 and U4: RK bytes that no schedule covers are unobservable. Two states that differ in them
only take the same step, answer the same on the bus, and differ afterwards in uncovered RK bytes only.
So the zeros the model puts there at reset (the model's choice, log entry 2) can be seen by nothing. The
sequence of draws is taken to be the same in both runs (log entry 4). -/
def Obligations.UncoveredRoundKeyBytesAreUnobservable : Prop :=
  ∀ (s t : State) (rk : Vector Byte 240),
    (s.ksv = true → ∀ k < 16 * (s.nr.toNat + 1), byteAt rk k = byteAt s.rk k) →
    step s = .next t →
    ∃ rk', step { s with rk := rk } = .next { t with rk := rk' } ∧
      (t.ksv = true → ∀ k < 16 * (t.nr.toNat + 1), byteAt rk' k = byteAt t.rk k)

/-! Reset (70_reset_and_hazards.md). -/

/-- R230, R231: while reset is asserted no host access is accepted. When it is released every item of state
takes the rule's value, whatever ran before; RK is not named, and reads as 0. -/
def Obligations.ResetGivesEveryItemItsValue : Prop :=
  (∀ (s : State) (a : HostAccess), s.events.head? = some (.host a) → s.resetAsserted = true →
    step s = .next { s.afterEvent with resp := .notAccepted }) ∧
  (∀ s : State, s.events.head? = some .resetRelease → s.resetAsserted = true →
    ∃ t, step s = .next t ∧
      (∀ k < 32, byteAt t.key k = 0) ∧ (∀ k < 16, byteAt t.blk k = 0) ∧
      t.bufOff = 0 ∧ t.bufLen = 0 ∧ t.ksv = false ∧ t.nk = 0 ∧ t.nr = 0 ∧
      t.busy = false ∧ t.done = false ∧ t.err = false ∧ t.ovr = false ∧ t.errcode = 0 ∧
      t.cur = none ∧ (∀ a, Memory.read t.dbuf a = none) ∧
      statusWord t = 0 ∧ (∀ i < 60, regValue t (.rk i) = 0) ∧
      (∀ i < 8, regValue t (.key i) = 0) ∧ (∀ i < 4, regValue t (.blk i) = 0) ∧
      t.cfg = s.cfg)

/-- R230: the state after reset has the rule's values and is good. -/
def Obligations.ResetStateIsGood : Prop :=
  State.reset.Good ∧ State.reset.busy = false ∧ State.reset.ksv = false ∧
  statusWord State.reset = 0 ∧ State.reset.cur = none ∧ State.reset.dbuf = []

/-! Invariants, progress and liveness. -/

/-- R34: every step keeps the state's invariants, the canonical form of DBUF and the parameters. -/
def Obligations.StepKeepsGoodStates : Prop :=
  ∀ s t : State, s.Good → step s = .next t → t.Good ∧ t.cfg = s.cfg

/-- No behaviour of this hardware is stuck (93_implementation_defined.md section 1): from a good state
every step answers a next state, for every event and every latched word. -/
def Obligations.GoodStatesNeverStop : Prop :=
  ∀ s : State, s.Good → ∃ t, step s = .next t

/-- R179's fairness: an accepted command is completed. From a good busy state whose pending events do not
touch the reset input, at most one step more than there are events ends the command. That the engine takes
its turn when no event is pending is the model's form of the fairness (log entry 1). -/
def Obligations.AcceptedCommandsComplete : Prop :=
  ∀ s : State, s.Good → s.busy = true → s.resetAsserted = false →
    (∀ e ∈ s.events, e ≠ .resetAssert ∧ e ≠ .resetRelease) →
    ∃ n ≤ s.events.length + 1, ∃ t, Host.Core.run Sys2Proof.core n s = .next t ∧ t.busy = false

/-- R215: a step of one engine reads and writes no other engine's state. A platform as a list of engines
stepped by index is the model's form (log entry 11). The last clause compares the engine's step on two
platforms: the sequence of draws is taken to be the same on both, which is the model's choice (log entries 4
and 18), so for a step that draws it says nothing of hardware whose draws differ between the two. -/
def Obligations.InstancesDoNotInteract : Prop :=
  ∀ (p q : Platform) (i : Nat), Platform.stepAt p i = .next q →
    q.length = p.length ∧
    (∀ j, j ≠ i → q[j]? = p[j]?) ∧
    (∀ s, p[i]? = some s → ∃ t, step s = .next t ∧ q[i]? = some t) ∧
    (∀ p' : Platform, p'[i]? = p[i]? → ∃ q', Platform.stepAt p' i = .next q' ∧ q'[i]? = q[i]?)
end

