-- ==== Sys2Proof/Laws/Memory.lean ====
section
/-!
SUPPORT. The laws of the buffer RAM and of the byte arrays: a read after a write, what a write leaves
alone, and that every operation keeps the canonical form (R30, R31).
-/

namespace Sys2Proof.Machine

/-! One byte of the RAM. -/

@[simp] theorem Memory.read_nil (a : Nat) : Memory.read [] a = none := rfl

/-- A read of the written address gives the byte; every other address reads as before. -/
theorem Memory.read_write (m : Memory) (a : Nat) (b : Byte) (x : Nat) :
    Memory.read (Memory.write m a b) x = if x = a then some b else Memory.read m x := by
  induction m with
  | nil => simp [Memory.write, Memory.read]
  | cons p m ih =>
    obtain ⟨k, c⟩ := p
    simp only [Memory.write]
    split
    · simp [Memory.read]
    · split
      · rename_i h; subst h; simp only [Memory.read]; split <;> simp_all
      · simp only [Memory.read, ih]; split
        · rename_i h1 h2 h3; subst h3; rw [if_neg (Ne.symm h2)]
        · rfl

/-- A written memory holds the new cell and old cells only. -/
theorem Memory.mem_write {m : Memory} {a : Nat} {b : Byte} {p : Host.Cell}
    (h : p ∈ Memory.write m a b) : p = (a, b) ∨ p ∈ m := by
  induction m with
  | nil => simpa [Memory.write] using h
  | cons q m ih =>
    obtain ⟨k, c⟩ := q
    simp only [Memory.write] at h
    split at h
    · simpa using h
    · split at h
      · rcases List.mem_cons.1 h with rfl | h
        · exact .inl rfl
        · exact .inr (List.mem_cons_of_mem _ h)
      · rcases List.mem_cons.1 h with rfl | h
        · exact .inr List.mem_cons_self
        · exact (ih h).imp_right (List.mem_cons_of_mem _)

theorem Memory.write_wf {m : Memory} (h : m.wf) (a : Nat) (b : Byte) : (Memory.write m a b).wf := by
  induction m with
  | nil => simp [Memory.write, Memory.wf]
  | cons q m ih =>
    obtain ⟨k, c⟩ := q
    obtain ⟨hk, hm⟩ := List.pairwise_cons.1 h
    simp only [Memory.write]
    split
    · rename_i hak
      refine List.pairwise_cons.2 ⟨fun p hp => ?_, h⟩
      rcases List.mem_cons.1 hp with rfl | hp
      · exact hak
      · exact Nat.lt_trans hak (hk p hp)
    · split
      · rename_i hak; subst hak; exact List.pairwise_cons.2 ⟨hk, hm⟩
      · refine List.pairwise_cons.2 ⟨fun p hp => ?_, ih hm⟩
        rcases Memory.mem_write hp with rfl | hp
        · show k < a; omega
        · exact hk p hp

theorem Memory.write_within {m : Memory} {n : Nat} (h : m.within n) {a : Nat} (ha : a < n) (b : Byte) :
    (Memory.write m a b).within n := by
  intro p hp
  rcases Memory.mem_write hp with rfl | hp
  · exact ha
  · exact h p hp

/-! A sequence of bytes. -/

/-- `MemWrite`: byte `x` of the written range is the sequence's, every other byte is as before. -/
theorem Memory.read_writeBytes (bs : List Byte) (m : Memory) (a x : Nat) :
    Memory.read (Memory.writeBytes m a bs) x =
      if a ≤ x ∧ x < a + bs.length then bs[x - a]? else Memory.read m x := by
  induction bs generalizing m a with
  | nil => simp [Memory.writeBytes]
  | cons b bs ih =>
    rw [Memory.writeBytes, ih, Memory.read_write]
    by_cases hx : x = a
    · subst hx
      rw [if_neg (by omega), if_pos rfl, if_pos (by simp)]; simp
    · rw [if_neg hx]
      by_cases hr : a + 1 ≤ x ∧ x < a + 1 + bs.length
      · have : x - a = x - (a + 1) + 1 := by omega
        rw [if_pos hr, if_pos (by simp; omega), this, List.getElem?_cons_succ]
      · rw [if_neg hr, if_neg (by simp; omega)]

theorem Memory.writeBytes_wf (bs : List Byte) {m : Memory} (h : m.wf) (a : Nat) :
    (Memory.writeBytes m a bs).wf := by
  induction bs generalizing m a with
  | nil => exact h
  | cons b bs ih => exact ih (Memory.write_wf h a b) (a + 1)

theorem Memory.writeBytes_within (bs : List Byte) {m : Memory} {n : Nat} (h : m.within n) {a : Nat}
    (ha : a + bs.length ≤ n) : (Memory.writeBytes m a bs).within n := by
  induction bs generalizing m a with
  | nil => exact h
  | cons b bs ih =>
    simp only [List.length_cons] at ha
    exact ih (Memory.write_within h (by omega) b) (by omega)

/-! Written ranges and blocks. -/

theorem Memory.allWritten_iff (m : Memory) (a n : Nat) :
    Memory.allWritten m a n = true ↔ ∀ j < n, (Memory.read m (a + j)).isSome := by
  induction n generalizing a with
  | zero => simp [Memory.allWritten]
  | succ n ih =>
    rw [Memory.allWritten, Bool.and_eq_true, ih]
    constructor
    · rintro ⟨h0, h⟩ j hj
      cases j with
      | zero => exact h0
      | succ j => have := h j (by omega); rwa [show a + 1 + j = a + (j + 1) by omega] at this
    · intro h
      refine ⟨h 0 (by omega), fun j hj => ?_⟩
      have := h (j + 1) (by omega)
      rwa [show a + (j + 1) = a + 1 + j by omega] at this

/-- The block of a range that is written whole. -/
theorem Memory.readBlock_of_written {m : Memory} {a : Nat}
    (h : ∀ j < 16, (Memory.read m (a + j)).isSome) :
    Memory.readBlock m a = some (Vector.ofFn fun k => (Memory.read m (a + k.val)).getD 0) :=
  if_pos ((Memory.allWritten_iff m a 16).2 h)

theorem Memory.readBlock_of_unwritten {m : Memory} {a j : Nat} (hj : j < 16)
    (h : Memory.read m (a + j) = none) : Memory.readBlock m a = none := by
  refine if_neg fun hw => ?_
  have := (Memory.allWritten_iff m a 16).1 hw j hj
  simp [h] at this

/-- A block depends on the sixteen bytes of its range only. -/
theorem Memory.readBlock_congr {m m' : Memory} {a a' : Nat}
    (h : ∀ j < 16, Memory.read m (a + j) = Memory.read m' (a' + j)) :
    Memory.readBlock m a = Memory.readBlock m' a' := by
  have hw : Memory.allWritten m a 16 = Memory.allWritten m' a' 16 := by
    rw [Bool.eq_iff_iff, Memory.allWritten_iff, Memory.allWritten_iff]
    exact forall₂_congr fun j hj => by rw [h j hj]
  unfold Memory.readBlock
  rw [hw]
  congr 2
  exact congrArg Vector.ofFn (funext fun k => by rw [h k.val k.isLt])

/-! Free bytes. -/

@[simp] theorem freeBytes_length (d n : Nat) : (freeBytes d n).length = n := by
  induction n generalizing d with
  | zero => rfl
  | succ n ih => simp [freeBytes, ih]

/-! Byte arrays. -/

theorem byteAt_eq {n : Nat} (xs : Vector Byte n) {k : Nat} (h : k < n) : byteAt xs k = xs[k] := dif_pos h

@[simp] theorem byteAt_ofFn {n : Nat} (f : Fin n → Byte) {k : Nat} (h : k < n) :
    byteAt (Vector.ofFn f) k = f ⟨k, h⟩ := by rw [byteAt_eq _ h, Vector.getElem_ofFn]

theorem byteAt_ext {n : Nat} {xs ys : Vector Byte n} (h : ∀ k < n, byteAt xs k = byteAt ys k) :
    xs = ys := by
  refine Vector.ext fun k hk => ?_
  rw [← byteAt_eq xs hk, ← byteAt_eq ys hk, h k hk]

/-- A word store writes its four bytes and leaves every other byte alone (R31). -/
theorem byteAt_putWord {n : Nat} (xs : Vector Byte n) (i : Nat) (v : Word) {k : Nat} (h : k < n) :
    byteAt (putWord xs i v) k = if k / 4 = i then byteOf v (k % 4) else byteAt xs k := by
  rw [putWord, byteAt_ofFn _ h, byteAt_eq xs h]; rfl

theorem byteAt_putPrefix {n : Nat} (xs : Vector Byte n) (bs : List Byte) {k : Nat} (h : k < n) :
    byteAt (putPrefix xs bs) k = bs[k]?.getD (byteAt xs k) := by
  rw [putPrefix, byteAt_ofFn _ h, byteAt_eq xs h]; rfl

/-- The word of four bytes holds them in order, the lowest index in the lowest bits (R31). -/
theorem byteOf_wordOf (b0 b1 b2 b3 : Byte) :
    byteOf (wordOf b0 b1 b2 b3) 0 = b0 ∧ byteOf (wordOf b0 b1 b2 b3) 1 = b1 ∧
      byteOf (wordOf b0 b1 b2 b3) 2 = b2 ∧ byteOf (wordOf b0 b1 b2 b3) 3 = b3 := by
  refine ⟨?_, ?_, ?_, ?_⟩ <;>
    (refine BitVec.eq_of_getLsbD_eq fun i hi => ?_
     simp only [byteOf, wordOf, BitVec.getLsbD_extractLsb', BitVec.getLsbD_append]
     interval_cases i <;> simp)

/-- Packing the four bytes of a word gives the word back (R31). -/
theorem wordOf_byteOf (v : Word) :
    wordOf (byteOf v 0) (byteOf v 1) (byteOf v 2) (byteOf v 3) = v := by
  refine BitVec.eq_of_getLsbD_eq fun i hi => ?_
  simp only [byteOf, wordOf, BitVec.getLsbD_extractLsb', BitVec.getLsbD_append]
  interval_cases i <;> simp

/-- A word read after the word's store gives the stored value. -/
theorem wordAt_putWord {n : Nat} (xs : Vector Byte n) (i : Nat) (v : Word) (h : 4 * i + 3 < n) :
    wordAt (putWord xs i v) i = v := by
  rw [wordAt, byteAt_putWord _ _ _ (by omega), byteAt_putWord _ _ _ (by omega),
    byteAt_putWord _ _ _ (by omega), byteAt_putWord _ _ _ h,
    if_pos (by omega), if_pos (by omega), if_pos (by omega), if_pos (by omega),
    show 4 * i % 4 = 0 by omega, show (4 * i + 1) % 4 = 1 by omega,
    show (4 * i + 2) % 4 = 2 by omega, show (4 * i + 3) % 4 = 3 by omega, wordOf_byteOf]

/-- A take of an array's bytes is settled by the bytes below its length. -/
theorem toList_take_congr {n k : Nat} {xs ys : Vector Byte n}
    (h : ∀ i < k, byteAt xs i = byteAt ys i) : xs.toList.take k = ys.toList.take k := by
  refine List.ext_getElem (by simp) fun i h1 _ => ?_
  simp only [List.length_take, Vector.length_toList] at h1
  have hi := h i (by omega)
  rw [byteAt_eq xs (by omega), byteAt_eq ys (by omega)] at hi
  simpa using hi

/-! The chunks of DECRYPT_BUF. -/

/-- One chunk writes its own sixteen bytes only. -/
theorem decryptChunk_read_outside (f : Block → Block) (a : Nat) (md : Memory × Nat) {x : Nat}
    (h : x < a ∨ a + 16 ≤ x) :
    Memory.read (decryptChunk f a md).1 x = Memory.read md.1 x := by
  unfold decryptChunk
  split <;> (rw [Memory.read_writeBytes, if_neg]; simp; omega)

/-- A chunk that is written whole becomes the block function of its old bytes (R172). -/
theorem decryptChunk_read_written (f : Block → Block) (a : Nat) (md : Memory × Nat) {b : Block}
    (hb : Memory.readBlock md.1 a = some b) {j : Nat} (hj : j < 16) :
    Memory.read (decryptChunk f a md).1 (a + j) = some (byteAt (f b) j) := by
  simp only [decryptChunk, hb]
  rw [Memory.read_writeBytes, if_pos (by simp; omega), byteAt_eq _ hj]
  simp [hj]

/-- Every byte of a processed chunk is written afterwards (R172, R175). -/
theorem decryptChunk_isSome (f : Block → Block) (a : Nat) (md : Memory × Nat) {j : Nat} (hj : j < 16) :
    (Memory.read (decryptChunk f a md).1 (a + j)).isSome := by
  unfold decryptChunk
  split <;> (rw [Memory.read_writeBytes, if_pos (by simp; omega)]; simp [hj])

/-- The chunks write their own range only (R173). -/
theorem decryptChunks_read_outside (f : Block → Block) (n a : Nat) (md : Memory × Nat) {x : Nat}
    (h : x < a ∨ a + 16 * n ≤ x) :
    Memory.read (decryptChunks f n a md).1 x = Memory.read md.1 x := by
  induction n generalizing a md with
  | zero => rfl
  | succ n ih => rw [decryptChunks, ih _ _ (by omega), decryptChunk_read_outside _ _ _ (by omega)]

/-- Chunk `k` of `n`, written whole, becomes the block function of its own old bytes (R172, R174). -/
theorem decryptChunks_read_written (f : Block → Block) (n a : Nat) (md : Memory × Nat) {k : Nat}
    (hk : k < n) {b : Block} (hb : Memory.readBlock md.1 (a + 16 * k) = some b) {j : Nat} (hj : j < 16) :
    Memory.read (decryptChunks f n a md).1 (a + 16 * k + j) = some (byteAt (f b) j) := by
  induction n generalizing a md k with
  | zero => omega
  | succ n ih =>
    rw [decryptChunks]
    cases k with
    | zero =>
      rw [decryptChunks_read_outside _ _ _ _ (by omega)]
      exact decryptChunk_read_written f a md hb hj
    | succ k =>
      rw [show a + 16 * (k + 1) + j = a + 16 + 16 * k + j by omega]
      refine ih _ _ (by omega) ?_
      rw [show a + 16 + 16 * k = a + 16 * (k + 1) by omega, ← hb]
      exact Memory.readBlock_congr fun j' _ => decryptChunk_read_outside _ _ _ (by omega)

/-- Every byte of every chunk is written afterwards (R175). -/
theorem decryptChunks_isSome (f : Block → Block) (n a : Nat) (md : Memory × Nat) {k : Nat}
    (hk : k < n) {j : Nat} (hj : j < 16) :
    (Memory.read (decryptChunks f n a md).1 (a + 16 * k + j)).isSome := by
  induction n generalizing a md k with
  | zero => omega
  | succ n ih =>
    rw [decryptChunks]
    cases k with
    | zero =>
      rw [decryptChunks_read_outside _ _ _ _ (by omega)]
      exact decryptChunk_isSome f a md hj
    | succ k =>
      rw [show a + 16 * (k + 1) + j = a + 16 + 16 * k + j by omega]
      exact ih _ _ (by omega)

theorem decryptChunk_wf (f : Block → Block) (a : Nat) {md : Memory × Nat} (h : md.1.wf) :
    (decryptChunk f a md).1.wf := by
  unfold decryptChunk; split <;> exact Memory.writeBytes_wf _ h _

theorem decryptChunk_within (f : Block → Block) {a n : Nat} {md : Memory × Nat} (h : md.1.within n)
    (ha : a + 16 ≤ n) : (decryptChunk f a md).1.within n := by
  unfold decryptChunk; split <;> exact Memory.writeBytes_within _ h (by simpa using ha)

theorem decryptChunks_wf (f : Block → Block) (n a : Nat) {md : Memory × Nat} (h : md.1.wf) :
    (decryptChunks f n a md).1.wf := by
  induction n generalizing a md with
  | zero => exact h
  | succ n ih => exact ih _ (decryptChunk_wf f a h)

theorem decryptChunks_within (f : Block → Block) {k a n : Nat} {md : Memory × Nat} (h : md.1.within n)
    (ha : a + 16 * k ≤ n) : (decryptChunks f k a md).1.within n := by
  induction k generalizing a md with
  | zero => exact h
  | succ k ih => exact ih (decryptChunk_within f h (by omega)) (by omega)

end Sys2Proof.Machine
end

