-- ==== Sys2Proof/Laws/State.lean ====
section
/-!
SUPPORT. One lemma per field per update: what each named update of State leaves in each field. All are true
by unfolding the update and all are simp lemmas, so that no later proof unfolds a record update.
-/

namespace Sys2Proof.Machine

/-! A STATUS write touches DONE, ERR and OVR only (R28). -/

section
variable (v : Word) (s : State)

@[simp] theorem writeStatus_key : (writeStatus v s).key = s.key := rfl
@[simp] theorem writeStatus_blk : (writeStatus v s).blk = s.blk := rfl
@[simp] theorem writeStatus_bufOff : (writeStatus v s).bufOff = s.bufOff := rfl
@[simp] theorem writeStatus_bufLen : (writeStatus v s).bufLen = s.bufLen := rfl
@[simp] theorem writeStatus_rk : (writeStatus v s).rk = s.rk := rfl
@[simp] theorem writeStatus_ksv : (writeStatus v s).ksv = s.ksv := rfl
@[simp] theorem writeStatus_nk : (writeStatus v s).nk = s.nk := rfl
@[simp] theorem writeStatus_nr : (writeStatus v s).nr = s.nr := rfl
@[simp] theorem writeStatus_busy : (writeStatus v s).busy = s.busy := rfl
@[simp] theorem writeStatus_done : (writeStatus v s).done = (s.done && !v.getLsbD 1) := rfl
@[simp] theorem writeStatus_err : (writeStatus v s).err = (s.err && !v.getLsbD 2) := rfl
@[simp] theorem writeStatus_ovr : (writeStatus v s).ovr = (s.ovr && !v.getLsbD 3) := rfl
@[simp] theorem writeStatus_errcode : (writeStatus v s).errcode = s.errcode := rfl
@[simp] theorem writeStatus_cur : (writeStatus v s).cur = s.cur := rfl
@[simp] theorem writeStatus_dbuf : (writeStatus v s).dbuf = s.dbuf := rfl
@[simp] theorem writeStatus_cfg : (writeStatus v s).cfg = s.cfg := rfl
@[simp] theorem writeStatus_events : (writeStatus v s).events = s.events := rfl
@[simp] theorem writeStatus_resetAsserted : (writeStatus v s).resetAsserted = s.resetAsserted := rfl
@[simp] theorem writeStatus_resp : (writeStatus v s).resp = s.resp := rfl
@[simp] theorem writeStatus_draws : (writeStatus v s).draws = s.draws := rfl

end

/-! Acceptance touches `cur`, BUSY and DONE only (R183). -/

section
variable (v : Word) (s : State)

@[simp] theorem acceptCommand_key : (acceptCommand v s).key = s.key := rfl
@[simp] theorem acceptCommand_blk : (acceptCommand v s).blk = s.blk := rfl
@[simp] theorem acceptCommand_bufOff : (acceptCommand v s).bufOff = s.bufOff := rfl
@[simp] theorem acceptCommand_bufLen : (acceptCommand v s).bufLen = s.bufLen := rfl
@[simp] theorem acceptCommand_rk : (acceptCommand v s).rk = s.rk := rfl
@[simp] theorem acceptCommand_ksv : (acceptCommand v s).ksv = s.ksv := rfl
@[simp] theorem acceptCommand_nk : (acceptCommand v s).nk = s.nk := rfl
@[simp] theorem acceptCommand_nr : (acceptCommand v s).nr = s.nr := rfl
@[simp] theorem acceptCommand_busy : (acceptCommand v s).busy = true := rfl
@[simp] theorem acceptCommand_done : (acceptCommand v s).done = false := rfl
@[simp] theorem acceptCommand_err : (acceptCommand v s).err = s.err := rfl
@[simp] theorem acceptCommand_ovr : (acceptCommand v s).ovr = s.ovr := rfl
@[simp] theorem acceptCommand_errcode : (acceptCommand v s).errcode = s.errcode := rfl
@[simp] theorem acceptCommand_cur : (acceptCommand v s).cur = some v := rfl
@[simp] theorem acceptCommand_dbuf : (acceptCommand v s).dbuf = s.dbuf := rfl
@[simp] theorem acceptCommand_cfg : (acceptCommand v s).cfg = s.cfg := rfl
@[simp] theorem acceptCommand_events : (acceptCommand v s).events = s.events := rfl
@[simp] theorem acceptCommand_resetAsserted : (acceptCommand v s).resetAsserted = s.resetAsserted := rfl
@[simp] theorem acceptCommand_resp : (acceptCommand v s).resp = s.resp := rfl
@[simp] theorem acceptCommand_draws : (acceptCommand v s).draws = s.draws := rfl

end

/-! A completion without error keeps ERR and OVR (R204). -/

section
variable (s : State)

@[simp] theorem complete_key : (complete s).key = s.key := rfl
@[simp] theorem complete_blk : (complete s).blk = s.blk := rfl
@[simp] theorem complete_bufOff : (complete s).bufOff = s.bufOff := rfl
@[simp] theorem complete_bufLen : (complete s).bufLen = s.bufLen := rfl
@[simp] theorem complete_rk : (complete s).rk = s.rk := rfl
@[simp] theorem complete_ksv : (complete s).ksv = s.ksv := rfl
@[simp] theorem complete_nk : (complete s).nk = s.nk := rfl
@[simp] theorem complete_nr : (complete s).nr = s.nr := rfl
@[simp] theorem complete_busy : (complete s).busy = false := rfl
@[simp] theorem complete_done : (complete s).done = true := rfl
@[simp] theorem complete_err : (complete s).err = s.err := rfl
@[simp] theorem complete_ovr : (complete s).ovr = s.ovr := rfl
@[simp] theorem complete_errcode : (complete s).errcode = 0 := rfl
@[simp] theorem complete_cur : (complete s).cur = none := rfl
@[simp] theorem complete_dbuf : (complete s).dbuf = s.dbuf := rfl
@[simp] theorem complete_cfg : (complete s).cfg = s.cfg := rfl
@[simp] theorem complete_events : (complete s).events = s.events := rfl
@[simp] theorem complete_resetAsserted : (complete s).resetAsserted = s.resetAsserted := rfl
@[simp] theorem complete_resp : (complete s).resp = s.resp := rfl
@[simp] theorem complete_draws : (complete s).draws = s.draws := rfl

end

/-! An error completion (R205). -/

section
variable (e : EngineError) (s : State)

@[simp] theorem raiseError_key : (raiseError e s).key = s.key := rfl
@[simp] theorem raiseError_blk : (raiseError e s).blk = s.blk := rfl
@[simp] theorem raiseError_bufOff : (raiseError e s).bufOff = s.bufOff := rfl
@[simp] theorem raiseError_bufLen : (raiseError e s).bufLen = s.bufLen := rfl
@[simp] theorem raiseError_rk : (raiseError e s).rk = s.rk := rfl
@[simp] theorem raiseError_ksv : (raiseError e s).ksv = s.ksv := rfl
@[simp] theorem raiseError_nk : (raiseError e s).nk = s.nk := rfl
@[simp] theorem raiseError_nr : (raiseError e s).nr = s.nr := rfl
@[simp] theorem raiseError_busy : (raiseError e s).busy = false := rfl
@[simp] theorem raiseError_done : (raiseError e s).done = true := rfl
@[simp] theorem raiseError_err : (raiseError e s).err = true := rfl
@[simp] theorem raiseError_ovr : (raiseError e s).ovr = s.ovr := rfl
@[simp] theorem raiseError_errcode : (raiseError e s).errcode = e.code := rfl
@[simp] theorem raiseError_cur : (raiseError e s).cur = none := rfl
@[simp] theorem raiseError_dbuf : (raiseError e s).dbuf = s.dbuf := rfl
@[simp] theorem raiseError_cfg : (raiseError e s).cfg = s.cfg := rfl
@[simp] theorem raiseError_events : (raiseError e s).events = s.events := rfl
@[simp] theorem raiseError_resetAsserted : (raiseError e s).resetAsserted = s.resetAsserted := rfl
@[simp] theorem raiseError_resp : (raiseError e s).resp = s.resp := rfl
@[simp] theorem raiseError_draws : (raiseError e s).draws = s.draws := rfl

end

/-! The schedule is invalidated, RK kept (R201). -/

section
variable (s : State)

@[simp] theorem clearSchedule_key : (clearSchedule s).key = s.key := rfl
@[simp] theorem clearSchedule_blk : (clearSchedule s).blk = s.blk := rfl
@[simp] theorem clearSchedule_bufOff : (clearSchedule s).bufOff = s.bufOff := rfl
@[simp] theorem clearSchedule_bufLen : (clearSchedule s).bufLen = s.bufLen := rfl
@[simp] theorem clearSchedule_rk : (clearSchedule s).rk = s.rk := rfl
@[simp] theorem clearSchedule_ksv : (clearSchedule s).ksv = false := rfl
@[simp] theorem clearSchedule_nk : (clearSchedule s).nk = 0 := rfl
@[simp] theorem clearSchedule_nr : (clearSchedule s).nr = 0 := rfl
@[simp] theorem clearSchedule_busy : (clearSchedule s).busy = s.busy := rfl
@[simp] theorem clearSchedule_done : (clearSchedule s).done = s.done := rfl
@[simp] theorem clearSchedule_err : (clearSchedule s).err = s.err := rfl
@[simp] theorem clearSchedule_ovr : (clearSchedule s).ovr = s.ovr := rfl
@[simp] theorem clearSchedule_errcode : (clearSchedule s).errcode = s.errcode := rfl
@[simp] theorem clearSchedule_cur : (clearSchedule s).cur = s.cur := rfl
@[simp] theorem clearSchedule_dbuf : (clearSchedule s).dbuf = s.dbuf := rfl
@[simp] theorem clearSchedule_cfg : (clearSchedule s).cfg = s.cfg := rfl
@[simp] theorem clearSchedule_events : (clearSchedule s).events = s.events := rfl
@[simp] theorem clearSchedule_resetAsserted : (clearSchedule s).resetAsserted = s.resetAsserted := rfl
@[simp] theorem clearSchedule_resp : (clearSchedule s).resp = s.resp := rfl
@[simp] theorem clearSchedule_draws : (clearSchedule s).draws = s.draws := rfl

end

/-! A successful EXPAND touches RK and its description only (R127). -/

section
variable (len : Nat) (s : State)

@[simp] theorem installSchedule_key : (installSchedule len s).key = s.key := by rw [installSchedule]
@[simp] theorem installSchedule_blk : (installSchedule len s).blk = s.blk := by rw [installSchedule]
@[simp] theorem installSchedule_bufOff : (installSchedule len s).bufOff = s.bufOff := by rw [installSchedule]
@[simp] theorem installSchedule_bufLen : (installSchedule len s).bufLen = s.bufLen := by rw [installSchedule]
@[simp] theorem installSchedule_rk : (installSchedule len s).rk = putPrefix s.rk (expandKey (keyOperand len s)) := by rw [installSchedule]
@[simp] theorem installSchedule_ksv : (installSchedule len s).ksv = true := by rw [installSchedule]
@[simp] theorem installSchedule_nk : (installSchedule len s).nk = BitVec.ofNat 4 (keyWords len) := by rw [installSchedule]
@[simp] theorem installSchedule_nr : (installSchedule len s).nr = BitVec.ofNat 4 (rounds len) := by rw [installSchedule]
@[simp] theorem installSchedule_busy : (installSchedule len s).busy = s.busy := by rw [installSchedule]
@[simp] theorem installSchedule_done : (installSchedule len s).done = s.done := by rw [installSchedule]
@[simp] theorem installSchedule_err : (installSchedule len s).err = s.err := by rw [installSchedule]
@[simp] theorem installSchedule_ovr : (installSchedule len s).ovr = s.ovr := by rw [installSchedule]
@[simp] theorem installSchedule_errcode : (installSchedule len s).errcode = s.errcode := by rw [installSchedule]
@[simp] theorem installSchedule_cur : (installSchedule len s).cur = s.cur := by rw [installSchedule]
@[simp] theorem installSchedule_dbuf : (installSchedule len s).dbuf = s.dbuf := by rw [installSchedule]
@[simp] theorem installSchedule_cfg : (installSchedule len s).cfg = s.cfg := by rw [installSchedule]
@[simp] theorem installSchedule_events : (installSchedule len s).events = s.events := by rw [installSchedule]
@[simp] theorem installSchedule_resetAsserted : (installSchedule len s).resetAsserted = s.resetAsserted := by rw [installSchedule]
@[simp] theorem installSchedule_resp : (installSchedule len s).resp = s.resp := by rw [installSchedule]
@[simp] theorem installSchedule_draws : (installSchedule len s).draws = s.draws := by rw [installSchedule]

end

/-! A dropped write sets OVR only (R186). -/

section
variable (s : State)

@[simp] theorem dropWrite_key : (dropWrite s).key = s.key := rfl
@[simp] theorem dropWrite_blk : (dropWrite s).blk = s.blk := rfl
@[simp] theorem dropWrite_bufOff : (dropWrite s).bufOff = s.bufOff := rfl
@[simp] theorem dropWrite_bufLen : (dropWrite s).bufLen = s.bufLen := rfl
@[simp] theorem dropWrite_rk : (dropWrite s).rk = s.rk := rfl
@[simp] theorem dropWrite_ksv : (dropWrite s).ksv = s.ksv := rfl
@[simp] theorem dropWrite_nk : (dropWrite s).nk = s.nk := rfl
@[simp] theorem dropWrite_nr : (dropWrite s).nr = s.nr := rfl
@[simp] theorem dropWrite_busy : (dropWrite s).busy = s.busy := rfl
@[simp] theorem dropWrite_done : (dropWrite s).done = s.done := rfl
@[simp] theorem dropWrite_err : (dropWrite s).err = s.err := rfl
@[simp] theorem dropWrite_ovr : (dropWrite s).ovr = true := rfl
@[simp] theorem dropWrite_errcode : (dropWrite s).errcode = s.errcode := rfl
@[simp] theorem dropWrite_cur : (dropWrite s).cur = s.cur := rfl
@[simp] theorem dropWrite_dbuf : (dropWrite s).dbuf = s.dbuf := rfl
@[simp] theorem dropWrite_cfg : (dropWrite s).cfg = s.cfg := rfl
@[simp] theorem dropWrite_events : (dropWrite s).events = s.events := rfl
@[simp] theorem dropWrite_resetAsserted : (dropWrite s).resetAsserted = s.resetAsserted := rfl
@[simp] theorem dropWrite_resp : (dropWrite s).resp = s.resp := rfl
@[simp] theorem dropWrite_draws : (dropWrite s).draws = s.draws := rfl

end

/-! A bus error touches nothing of the engine (R54). -/

section
variable (s : State)

@[simp] theorem busError_key : (busError s).key = s.key := rfl
@[simp] theorem busError_blk : (busError s).blk = s.blk := rfl
@[simp] theorem busError_bufOff : (busError s).bufOff = s.bufOff := rfl
@[simp] theorem busError_bufLen : (busError s).bufLen = s.bufLen := rfl
@[simp] theorem busError_rk : (busError s).rk = s.rk := rfl
@[simp] theorem busError_ksv : (busError s).ksv = s.ksv := rfl
@[simp] theorem busError_nk : (busError s).nk = s.nk := rfl
@[simp] theorem busError_nr : (busError s).nr = s.nr := rfl
@[simp] theorem busError_busy : (busError s).busy = s.busy := rfl
@[simp] theorem busError_done : (busError s).done = s.done := rfl
@[simp] theorem busError_err : (busError s).err = s.err := rfl
@[simp] theorem busError_ovr : (busError s).ovr = s.ovr := rfl
@[simp] theorem busError_errcode : (busError s).errcode = s.errcode := rfl
@[simp] theorem busError_cur : (busError s).cur = s.cur := rfl
@[simp] theorem busError_dbuf : (busError s).dbuf = s.dbuf := rfl
@[simp] theorem busError_cfg : (busError s).cfg = s.cfg := rfl
@[simp] theorem busError_events : (busError s).events = s.events := rfl
@[simp] theorem busError_resetAsserted : (busError s).resetAsserted = s.resetAsserted := rfl
@[simp] theorem busError_resp : (busError s).resp = .busErr := rfl
@[simp] theorem busError_draws : (busError s).draws = s.draws := rfl

end

/-! A read touches nothing of the engine (R180). -/

section
variable (r : Reg) (s : State)

@[simp] theorem readReg_key : (readReg r s).key = s.key := rfl
@[simp] theorem readReg_blk : (readReg r s).blk = s.blk := rfl
@[simp] theorem readReg_bufOff : (readReg r s).bufOff = s.bufOff := rfl
@[simp] theorem readReg_bufLen : (readReg r s).bufLen = s.bufLen := rfl
@[simp] theorem readReg_rk : (readReg r s).rk = s.rk := rfl
@[simp] theorem readReg_ksv : (readReg r s).ksv = s.ksv := rfl
@[simp] theorem readReg_nk : (readReg r s).nk = s.nk := rfl
@[simp] theorem readReg_nr : (readReg r s).nr = s.nr := rfl
@[simp] theorem readReg_busy : (readReg r s).busy = s.busy := rfl
@[simp] theorem readReg_done : (readReg r s).done = s.done := rfl
@[simp] theorem readReg_err : (readReg r s).err = s.err := rfl
@[simp] theorem readReg_ovr : (readReg r s).ovr = s.ovr := rfl
@[simp] theorem readReg_errcode : (readReg r s).errcode = s.errcode := rfl
@[simp] theorem readReg_cur : (readReg r s).cur = s.cur := rfl
@[simp] theorem readReg_dbuf : (readReg r s).dbuf = s.dbuf := rfl
@[simp] theorem readReg_cfg : (readReg r s).cfg = s.cfg := rfl
@[simp] theorem readReg_events : (readReg r s).events = s.events := rfl
@[simp] theorem readReg_resetAsserted : (readReg r s).resetAsserted = s.resetAsserted := rfl
@[simp] theorem readReg_resp : (readReg r s).resp = .data (readValue s r) := rfl
@[simp] theorem readReg_draws : (readReg r s).draws = if readDraws s r then s.draws + 4 else s.draws := rfl

end

/-! Latching a word and giving the engine its turn. -/

section
variable (v : Word) (s : State)

@[simp] theorem latchCommand_key : (latchCommand v s).key = s.key := rfl
@[simp] theorem latchCommand_blk : (latchCommand v s).blk = s.blk := rfl
@[simp] theorem latchCommand_bufOff : (latchCommand v s).bufOff = s.bufOff := rfl
@[simp] theorem latchCommand_bufLen : (latchCommand v s).bufLen = s.bufLen := rfl
@[simp] theorem latchCommand_rk : (latchCommand v s).rk = s.rk := rfl
@[simp] theorem latchCommand_ksv : (latchCommand v s).ksv = s.ksv := rfl
@[simp] theorem latchCommand_nk : (latchCommand v s).nk = s.nk := rfl
@[simp] theorem latchCommand_nr : (latchCommand v s).nr = s.nr := rfl
@[simp] theorem latchCommand_busy : (latchCommand v s).busy = true := rfl
@[simp] theorem latchCommand_done : (latchCommand v s).done = false := rfl
@[simp] theorem latchCommand_err : (latchCommand v s).err = s.err := rfl
@[simp] theorem latchCommand_ovr : (latchCommand v s).ovr = s.ovr := rfl
@[simp] theorem latchCommand_errcode : (latchCommand v s).errcode = s.errcode := rfl
@[simp] theorem latchCommand_cur : (latchCommand v s).cur = some v := rfl
@[simp] theorem latchCommand_dbuf : (latchCommand v s).dbuf = s.dbuf := rfl
@[simp] theorem latchCommand_cfg : (latchCommand v s).cfg = s.cfg := rfl
@[simp] theorem latchCommand_events : (latchCommand v s).events = .engine :: s.events := rfl
@[simp] theorem latchCommand_resetAsserted : (latchCommand v s).resetAsserted = false := rfl
@[simp] theorem latchCommand_resp : (latchCommand v s).resp = s.resp := rfl
@[simp] theorem latchCommand_draws : (latchCommand v s).draws = s.draws := rfl

end

/-! A released reset gives every item its reset value (R230). -/

section
variable (s : State)

@[simp] theorem releaseReset_key : (releaseReset s).key = Vector.replicate 32 0 := by
  rw [releaseReset, State.resetWith]
@[simp] theorem releaseReset_blk : (releaseReset s).blk = Vector.replicate 16 0 := by
  rw [releaseReset, State.resetWith]
@[simp] theorem releaseReset_bufOff : (releaseReset s).bufOff = 0 := by
  rw [releaseReset, State.resetWith]
@[simp] theorem releaseReset_bufLen : (releaseReset s).bufLen = 0 := by
  rw [releaseReset, State.resetWith]
@[simp] theorem releaseReset_rk : (releaseReset s).rk = Vector.replicate 240 0 := by
  rw [releaseReset, State.resetWith]
@[simp] theorem releaseReset_ksv : (releaseReset s).ksv = false := by
  rw [releaseReset, State.resetWith]
@[simp] theorem releaseReset_nk : (releaseReset s).nk = 0 := by
  rw [releaseReset, State.resetWith]
@[simp] theorem releaseReset_nr : (releaseReset s).nr = 0 := by
  rw [releaseReset, State.resetWith]
@[simp] theorem releaseReset_busy : (releaseReset s).busy = false := by
  rw [releaseReset, State.resetWith]
@[simp] theorem releaseReset_done : (releaseReset s).done = false := by
  rw [releaseReset, State.resetWith]
@[simp] theorem releaseReset_err : (releaseReset s).err = false := by
  rw [releaseReset, State.resetWith]
@[simp] theorem releaseReset_ovr : (releaseReset s).ovr = false := by
  rw [releaseReset, State.resetWith]
@[simp] theorem releaseReset_errcode : (releaseReset s).errcode = 0 := by
  rw [releaseReset, State.resetWith]
@[simp] theorem releaseReset_cur : (releaseReset s).cur = none := by
  rw [releaseReset, State.resetWith]
@[simp] theorem releaseReset_dbuf : (releaseReset s).dbuf = [] := by
  rw [releaseReset, State.resetWith]
@[simp] theorem releaseReset_cfg : (releaseReset s).cfg = s.cfg := by
  rw [releaseReset, State.resetWith]
@[simp] theorem releaseReset_events : (releaseReset s).events = s.events := by
  rw [releaseReset, State.resetWith]
@[simp] theorem releaseReset_resetAsserted : (releaseReset s).resetAsserted = false := by
  rw [releaseReset, State.resetWith]
@[simp] theorem releaseReset_resp : (releaseReset s).resp = .none := by
  rw [releaseReset, State.resetWith]
@[simp] theorem releaseReset_draws : (releaseReset s).draws = s.draws := by
  rw [releaseReset, State.resetWith]

end

end Sys2Proof.Machine
end

