-- ==== Sys2Proof/Laws/Bus.lean ====
section
/-!
SUPPORT. What a host access can do: the window map (R26), reads (R180, R61) and writes (R181).
-/

namespace Sys2Proof.Machine

/-! The window map. -/

/-- The registers a write may store to are at the offsets R186 names. -/
theorem regAt_writable_iff (cfg : Config) (off : Nat) :
    (regAt cfg off).writable = true ↔ WritableOffset cfg off := by
  unfold regAt WritableOffset
  repeat' split
  all_goals simp [Reg.writable]
  all_goals omega

theorem regAt_status_iff (cfg : Config) (off : Nat) : regAt cfg off = .status ↔ off = 0x004 := by
  unfold regAt
  repeat' split
  all_goals simp
  all_goals omega

theorem regAt_cmd_iff (cfg : Config) (off : Nat) : regAt cfg off = .cmd ↔ off = 0x000 := by
  unfold regAt
  repeat' split
  all_goals simp
  all_goals omega

theorem regAt_reserved {cfg : Config} {off : Nat} (h : ReservedOffset cfg off) :
    regAt cfg off = .reserved := by
  unfold ReservedOffset at h
  unfold regAt
  repeat' split
  all_goals first | rfl | omega

theorem regAt_bufOff (cfg : Config) : regAt cfg 0x008 = .bufOff := rfl

theorem regAt_bufLen (cfg : Config) : regAt cfg 0x00C = .bufLen := rfl

theorem regAt_key (cfg : Config) {i : Nat} (h : i < 8) : regAt cfg (0x020 + 4 * i) = .key i := by
  unfold regAt
  repeat' split
  all_goals first | omega | (congr 1; omega)

theorem regAt_blk (cfg : Config) {i : Nat} (h : i < 4) : regAt cfg (0x040 + 4 * i) = .blk i := by
  unfold regAt
  repeat' split
  all_goals first | omega | (congr 1; omega)

theorem regAt_rk (cfg : Config) {i : Nat} (h : i < 60) : regAt cfg (0x100 + 4 * i) = .rk i := by
  unfold regAt
  repeat' split
  all_goals first | omega | (congr 1; omega)

theorem regAt_dbuf {cfg : Config} {i : Nat} (h : 4 * i < cfg.bufSize) :
    regAt cfg (0x1000 + 4 * i) = .dbuf i := by
  unfold regAt
  repeat' split
  all_goals first | omega | (congr 1; omega)

/-- KEYi is at its own offset only (R26). -/
theorem regAt_eq_key {cfg : Config} {off i : Nat} (h4 : off % 4 = 0) (h : regAt cfg off = .key i) :
    i < 8 ∧ off = 0x020 + 4 * i := by
  unfold regAt at h
  repeat' split at h
  all_goals simp at h
  all_goals omega

/-- BLKi is at its own offset only (R26). -/
theorem regAt_eq_blk {cfg : Config} {off i : Nat} (h4 : off % 4 = 0) (h : regAt cfg off = .blk i) :
    i < 4 ∧ off = 0x040 + 4 * i := by
  unfold regAt at h
  repeat' split at h
  all_goals simp at h
  all_goals omega

/-- DBUF word `i` is at its own offset only (R26). -/
theorem regAt_eq_dbuf {cfg : Config} {off i : Nat} (h4 : off % 4 = 0) (h : regAt cfg off = .dbuf i) :
    4 * i < cfg.bufSize ∧ off = 0x1000 + 4 * i := by
  unfold regAt at h
  repeat' split at h
  all_goals simp at h
  all_goals omega

theorem regAt_bufOff_iff (cfg : Config) (off : Nat) : regAt cfg off = .bufOff ↔ off = 0x008 := by
  unfold regAt
  repeat' split
  all_goals simp
  all_goals omega

theorem regAt_bufLen_iff (cfg : Config) (off : Nat) : regAt cfg off = .bufLen ↔ off = 0x00C := by
  unfold regAt
  repeat' split
  all_goals simp
  all_goals omega

/-- A DBUF word of the map lies inside the RAM (R26, R30). -/
theorem regAt_dbuf_lt {cfg : Config} (hc : cfg.Legal) {off i : Nat} (h : regAt cfg off = .dbuf i) :
    4 * i + 4 ≤ cfg.bufSize := by
  obtain ⟨hc, -⟩ := hc
  unfold regAt at h
  repeat' split at h
  all_goals simp at h
  all_goals omega

/-! Accesses. -/

theorem accessOk_iff (addr size : Nat) : accessOk addr size = true ↔ size = 4 ∧ addr % 4 = 0 := by
  unfold accessOk windowOffset
  rw [Bool.and_eq_true, decide_eq_true_eq, decide_eq_true_eq]
  omega

theorem overlapsBuffer_iff (s : State) (i : Nat) :
    overlapsBuffer s i = true ↔
      ∃ j < 4, s.bufOff.toNat ≤ 4 * i + j ∧ 4 * i + j < s.bufOff.toNat + 16 * (s.bufLen.toNat / 16) := by
  simp only [overlapsBuffer, Bool.and_eq_true, decide_eq_true_eq]
  simp only [chunkCount]
  constructor
  · rintro ⟨⟨h0, h1⟩, h2⟩
    by_cases hle : s.bufOff.toNat ≤ 4 * i
    · exact ⟨0, by omega, by omega, by omega⟩
    · exact ⟨s.bufOff.toNat - 4 * i, by omega, by omega, by omega⟩
  · rintro ⟨j, _, _, _⟩
    exact ⟨⟨by omega, by omega⟩, by omega⟩

/-- In flight, register by register (R61). -/
theorem inFlight_of_cur {s : State} {v : Word} (hb : s.busy = true) (hc : s.cur = some v) (r : Reg) :
    inFlight s r = mayWrite s (v.extractLsb' 0 4) r := by
  simp only [inFlight, hb, hc, Bool.true_and, opField]

/-- In flight by register is R61's set of offsets. -/
theorem inFlight_iff (s : State) {off : Nat} (h : off % 4 = 0) :
    inFlight s (regAt s.cfg off) = true ↔ s.InFlightAt off := by
  unfold State.InFlightAt
  cases hb : s.busy with
  | false => simp [inFlight, hb]
  | true =>
    cases hc : s.cur with
    | none => simp [inFlight, hc]
    | some v =>
      rw [inFlight_of_cur hb hc]
      simp only [true_and, Option.some.injEq, exists_eq_left']
      generalize v.extractLsb' 0 4 = op
      unfold regAt
      repeat' split
      all_goals simp only [mayWrite, Bool.and_eq_true, decide_eq_true_eq, Bool.false_eq_true, false_iff,
        not_or, not_and, overlapsBuffer_iff]
      all_goals try (refine ⟨fun _ _ => ?_, fun _ _ => ?_, fun _ _ => ?_⟩ <;> omega)
      · exact ⟨fun hf => .inl ⟨hf, by omega, by omega⟩,
          fun h => h.elim (fun h => h.1) fun h => by rcases h with h | h <;> omega⟩
      · exact ⟨fun hf => .inr (.inl ⟨hf, by omega, by omega⟩),
          fun h => by rcases h with h | h | h <;> [omega; exact h.1; omega]⟩
      · have h4 : 4 * ((off - 4096) / 4) = off - 4096 := by omega
        rw [h4]
        exact ⟨fun hf => .inr (.inr ⟨hf.1, by omega, by omega, hf.2⟩),
          fun h => by rcases h with h | h | h <;> [omega; omega; exact ⟨h.1, h.2.2.2⟩]⟩

/-- What an access can do: answer on the bus (and draw), or, for an accepted write, the write's effect. -/
theorem hostAccess_cases (a : HostAccess) (s : State) :
    (∃ r d, hostAccess a s = { s with resp := r, draws := d }) ∨
    (∃ addr v, a = .wr addr 4 v ∧ addr % 4 = 0 ∧ s.resetAsserted = false ∧
      hostAccess a s = writeReg v (regAt s.cfg (addr % 0x10000)) s) := by
  unfold hostAccess
  split
  · exact .inl ⟨_, s.draws, rfl⟩
  · rename_i hr
    cases a with
    | rd addr size =>
      dsimp only
      split
      · exact .inl ⟨_, _, rfl⟩
      · exact .inl ⟨_, s.draws, rfl⟩
    | wr addr size v =>
      dsimp only
      split
      · rename_i h
        obtain ⟨rfl, h4⟩ := (accessOk_iff addr size).1 h
        exact .inr ⟨addr, v, rfl, h4, by simpa using hr, rfl⟩
      · exact .inl ⟨_, s.draws, rfl⟩

/-- What an accepted write can do (R181): the STATUS write, nothing, a drop, or an idle engine's store. -/
theorem writeReg_cases (v : Word) (r : Reg) (s : State) :
    (r = .status ∧ writeReg v r s = { writeStatus v s with resp := .ack }) ∨
    (r ≠ .status ∧ r.writable = false ∧ writeReg v r s = { s with resp := .ack }) ∨
    (r.writable = true ∧ s.busy = true ∧ writeReg v r s = { s with ovr := true, resp := .ack }) ∨
    (r.writable = true ∧ s.busy = false ∧ writeReg v r s = { storeReg v s r with resp := .ack }) := by
  unfold writeReg writeEffect
  by_cases h1 : r = .status
  · simp [h1]
  · rw [if_neg h1]
    cases h2 : r.writable with
    | false => simp [h1]
    | true =>
      cases h3 : s.busy with
      | true => exact .inr (.inr (.inl ⟨rfl, rfl, by simp [dropWrite, h3]⟩))
      | false => exact .inr (.inr (.inr ⟨rfl, rfl, by simp⟩))

/-- A store of an idle engine keeps everything but its own register (R182, R183). -/
theorem storeReg_frame (v : Word) (s : State) (r : Reg) :
    (storeReg v s r).rk = s.rk ∧ (storeReg v s r).ksv = s.ksv ∧ (storeReg v s r).nk = s.nk ∧
    (storeReg v s r).nr = s.nr ∧ (storeReg v s r).err = s.err ∧ (storeReg v s r).ovr = s.ovr ∧
    (storeReg v s r).errcode = s.errcode ∧ (storeReg v s r).cfg = s.cfg ∧
    (storeReg v s r).events = s.events ∧ (storeReg v s r).resetAsserted = s.resetAsserted ∧
    (storeReg v s r).resp = s.resp ∧ (storeReg v s r).draws = s.draws := by
  cases r <;> simp [storeReg]

end Sys2Proof.Machine
end

