-- ==== Sys2Proof/Laws/Datapath.lean ====
section
/-!
SUPPORT. One lemma per datapath unit, saying its byte `k` (R141 to R146), and the shape of the expansion:
how many words it has and that each is written once, before any read of it (R122, R124).
-/

namespace Sys2Proof.Machine

/-! The units, byte by byte. -/

theorem byteAt_isr (s : Block) {k : Nat} (h : k < 16) : byteAt (isr s) k = byteAt s (shiftSource k) :=
  byteAt_ofFn _ h

theorem byteAt_isb (s : Block) {k : Nat} (h : k < 16) : byteAt (isb s) k = invSbox (byteAt s k) :=
  byteAt_ofFn _ h

theorem byteAt_isrsb (s : Block) {k : Nat} (h : k < 16) :
    byteAt (isrsb s) k = invSbox (byteAt s (shiftSource k)) :=
  byteAt_ofFn _ h

theorem byteAt_imcsbsr (s : Block) {k : Nat} (h : k < 16) :
    byteAt (imcsbsr s) k = invSbox (byteAt (imc s) (shiftSource k)) :=
  byteAt_ofFn _ h

theorem byteAt_imc (s : Block) {k : Nat} (h : k < 16) :
    byteAt (imc s) k = invMixByte (k % 4) (byteAt s (4 * (k / 4))) (byteAt s (4 * (k / 4) + 1))
      (byteAt s (4 * (k / 4) + 2)) (byteAt s (4 * (k / 4) + 3)) :=
  byteAt_ofFn _ h

theorem byteAt_ark (s : Block) (r : List Byte) (i : Nat) {k : Nat} (h : k < 16) :
    byteAt (ark s r i) k = byteAt s k ^^^ r.getD (16 * i + k) 0 := by
  rw [ark, byteAt_ofFn _ h, byteAt_eq s h]; rfl

theorem shiftSource_lt (k : Nat) : shiftSource k < 16 := by unfold shiftSource; omega

/-- The source of byte `r + 4c` is `r + 4*((c - r) mod 4)` (R141). -/
theorem shiftSource_matrix {r : Nat} (hr : r < 4) (c : Nat) :
    shiftSource (r + 4 * c) = r + 4 * ((c + 4 - r) % 4) := by
  unfold shiftSource
  rw [show (r + 4 * c) % 4 = r by omega, show (r + 4 * c) / 4 = c by omega]

/-! The expansion. -/

@[simp] theorem expandWords_length (nk n : Nat) (ws : List KeyWord) :
    (expandWords nk n ws).length = ws.length + n := by
  induction n generalizing ws with
  | zero => rfl
  | succ n ih => rw [expandWords, ih]; simp; omega

/-- A word once written is never written again (R124). -/
theorem wordIn_expandWords_old (nk n : Nat) (ws : List KeyWord) {i : Nat} (h : i < ws.length) :
    wordIn (expandWords nk n ws) i = wordIn ws i := by
  induction n generalizing ws with
  | zero => rfl
  | succ n ih =>
    rw [expandWords, ih _ (by simp; omega)]
    simp [wordIn, List.getElem?_append_left h]

/-- Each new word is the recurrence's (R122). -/
theorem wordIn_expandWords_new (nk n : Nat) (ws : List KeyWord) {idx : Nat} (hnk : 0 < nk)
    (h0 : ws.length ≤ idx) (h1 : idx < ws.length + n) (hne : nk ≤ ws.length) :
    wordIn (expandWords nk n ws) idx =
      (wordIn (expandWords nk n ws) (idx - nk)).xor
        (transformTemp nk idx (wordIn (expandWords nk n ws) (idx - 1))) := by
  induction n generalizing ws with
  | zero => omega
  | succ n ih =>
    rw [expandWords]
    by_cases he : idx = ws.length
    · subst he
      rw [wordIn_expandWords_old _ _ _ (i := ws.length) (by simp),
        wordIn_expandWords_old _ _ _ (i := ws.length - nk) (by simp),
        wordIn_expandWords_old _ _ _ (i := ws.length - 1) (by simp)]
      simp only [wordIn, List.getD_eq_getElem?_getD]
      rw [List.getElem?_append_left (show ws.length - nk < ws.length by omega),
        List.getElem?_append_left (show ws.length - 1 < ws.length by omega)]
      simp
    · exact ih _ (by simp; omega) (by simp; omega) (by simp; omega)

/-- Byte `4i + j` of words laid out in order is byte `j` of word `i` (R121). -/
theorem keyWordAt_flatMap (ws : List KeyWord) {i : Nat} (h : i < ws.length) :
    keyWordAt (ws.flatMap KeyWord.bytes) i = wordIn ws i := by
  induction ws generalizing i with
  | nil => simp at h
  | cons w ws ih =>
    cases i with
    | zero => simp [keyWordAt, wordIn, KeyWord.bytes]
    | succ i =>
      have := ih (i := i) (by simpa using h)
      simp only [keyWordAt, wordIn, List.flatMap_cons, KeyWord.bytes] at this ⊢
      simpa [Nat.mul_add, Nat.add_assoc] using this

/-- The schedule of a legal key has `16*(Nr+1)` bytes (R6, R121). -/
theorem expandKey_length {k : List Byte} (h : k.length = 16 ∨ k.length = 24 ∨ k.length = 32) :
    (expandKey k).length = 16 * (rounds k.length + 1) := by
  have hb : ∀ w : KeyWord, w.bytes.length = 4 := fun _ => rfl
  simp only [expandKey, List.length_flatMap, hb, List.map_const', List.sum_replicate, expandWords_length,
    List.length_map, List.length_range, rounds, keyWords]
  rcases h with h | h | h <;> simp [h]

end Sys2Proof.Machine
end

