-- ==== Sys2Proof/Laws/Decode.lean ====
section
/-!
SUPPORT. The decoder, inverted: which words it takes and what it reads from them (R80, R84).
-/

namespace Sys2Proof.Machine

/-- A word is its four fields (R80). -/
theorem word_fields (w : Word) :
    w = (rsv1Field w ++ lenField w ++ rsv0Field w ++ opField w : BitVec (16 + 8 + 4 + 4)) := by
  refine BitVec.eq_of_getLsbD_eq fun i hi => ?_
  simp only [rsv1Field, lenField, rsv0Field, opField, BitVec.getLsbD_append, BitVec.getLsbD_extractLsb']
  interval_cases i <;> simp

/-- Everything a legal word can be (R82, R84). -/
theorem decode_cases {w : Word} {i : Instr} (h : decode w = .ok i) :
    rsv1Field w = 0 ∧ rsv0Field w = 0 ∧
      ((opField w = 0 ∧ lenField w = 0 ∧ i = .nop) ∨
       (opField w = 1 ∧ i = .expand (lenField w).toNat) ∨
       (opField w = 2 ∧ i = .decryptBlock (lenField w).toNat) ∨
       (opField w = 3 ∧ lenField w = 0 ∧ i = .decryptBuf)) := by
  unfold decode withoutLen at h
  split at h
  · cases h
  split at h
  · cases h
  rename_i h1 h2
  refine ⟨by simpa using h1, by simpa using h2, ?_⟩
  split at h
  · rename_i ho
    split at h
    · rename_i hl; cases h; exact .inl ⟨BitVec.eq_of_toNat_eq ho, hl, rfl⟩
    · cases h
  · rename_i ho; cases h; exact .inr (.inl ⟨BitVec.eq_of_toNat_eq ho, rfl⟩)
  · rename_i ho; cases h; exact .inr (.inr (.inl ⟨BitVec.eq_of_toNat_eq ho, rfl⟩))
  · rename_i ho
    split at h
    · rename_i hl; cases h; exact .inr (.inr (.inr ⟨BitVec.eq_of_toNat_eq ho, hl, rfl⟩))
    · cases h
  · cases h

/-- The decoder rejects exactly the words of R84. -/
theorem illegalWord_iff (v : Word) : IllegalWord v ↔ ∃ e, decode v = .error e := by
  have hu : IllegalWord v ↔ 4 ≤ (opField v).toNat ∨ rsv0Field v ≠ 0 ∨ rsv1Field v ≠ 0 ∨
      ((opField v = 0 ∨ opField v = 3) ∧ lenField v ≠ 0) := Iff.rfl
  rw [hu]
  constructor
  · intro h
    cases hd : decode v with
    | error e => exact ⟨e, rfl⟩
    | ok i =>
      exfalso
      obtain ⟨h1, h0, hi⟩ := decode_cases hd
      rcases hi with ⟨ho, hl, rfl⟩ | ⟨ho, rfl⟩ | ⟨ho, rfl⟩ | ⟨ho, hl, rfl⟩ <;> simp_all
  · rintro ⟨e, he⟩
    by_contra h
    push Not at h
    obtain ⟨h4, h0, h1, hl⟩ := h
    unfold decode withoutLen at he
    rw [if_neg (by simp [h1]), if_neg (by simp [h0])] at he
    split at he
    · rename_i ho; rw [if_pos (hl (.inl (BitVec.eq_of_toNat_eq ho)))] at he; cases he
    · cases he
    · cases he
    · rename_i ho; rw [if_pos (hl (.inr (BitVec.eq_of_toNat_eq ho)))] at he; cases he
    · rename_i a b c d
      have h0 : (opField v).toNat ≠ 0 := a
      have h1 : (opField v).toNat ≠ 1 := b
      have h2 : (opField v).toNat ≠ 2 := c
      have h3 : (opField v).toNat ≠ 3 := d
      omega

end Sys2Proof.Machine
end

