-- ==== Sys2Proof/Laws/PerInstr.lean ====
section
/-!
SUPPORT. Statements made for every instruction, one lemma per constructor. `RowMatch`: the encoder's word
of a command lies in the command's own row of R82's table, whatever LEN holds.
-/

namespace Sys2Proof.Laws.RowMatch

open Sys2Proof

/-- The word of a well-formed command matches its row of R82 under the row's mask. -/
def Statement (i : Instr) : Prop := i.wellFormed = true → i.row.matchesWord (encode i) = true

/-- Under the mask 0xFFFF00FF a CMD word keeps everything but LEN (R82). -/
theorem packCmd_and_mask (len : Nat) (op : BitVec 4) : packCmd len op &&& 0xFFFF00FF = packCmd 0 op := by
  refine BitVec.eq_of_getLsbD_eq fun i hi => ?_
  simp only [packCmd, BitVec.getLsbD_and, BitVec.getLsbD_append]
  interval_cases i <;> simp

theorem nop : Statement .nop := fun _ => by decide

theorem expand (len : Nat) : Statement (.expand len) := fun _ => by
  simp only [OpcodeRow.matchesWord, Instr.row, encode, packCmd_and_mask]
  decide

theorem decryptBlock (len : Nat) : Statement (.decryptBlock len) := fun _ => by
  simp only [OpcodeRow.matchesWord, Instr.row, encode, packCmd_and_mask]
  decide

theorem decryptBuf : Statement .decryptBuf := fun _ => by decide

end Sys2Proof.Laws.RowMatch
end

