-- ==== Sys2Proof/Laws/Step.lean ====
section
/-!
SUPPORT. What one step can do, said once: the inversion lemmas of `step`, of the engine's step and of each
command's meaning, which later proofs cite instead of unfolding.
-/

namespace Sys2Proof.Machine

/-! The commands. -/

theorem legalKeyLength_iff (len : Nat) :
    legalKeyLength len = true ↔ len = 16 ∨ len = 24 ∨ len = 32 := by
  simp [legalKeyLength, or_assoc]

theorem execExpand_legal {len : Nat} (h : len = 16 ∨ len = 24 ∨ len = 32) (s : State) :
    execExpand len s = .next (complete (installSchedule len s)) := by
  rw [execExpand, if_pos ((legalKeyLength_iff len).2 h)]

theorem execExpand_illegal {len : Nat} (h : ¬ (len = 16 ∨ len = 24 ∨ len = 32)) (s : State) :
    execExpand len s = .next (raiseError .invalidKeyLength (clearSchedule s)) := by
  rw [execExpand, if_neg fun hl => h ((legalKeyLength_iff len).1 hl)]

theorem execDecryptBlock_badLength {len : Nat} (h : len ≠ 16) (s : State) :
    execDecryptBlock len s = .next (raiseError .invalidBlockLength s) := by
  rw [execDecryptBlock, if_pos h]

theorem execDecryptBlock_noSchedule {s : State} (h : s.ksv = false) :
    execDecryptBlock 16 s = .next (raiseError .noSchedule s) := by
  rw [execDecryptBlock, if_neg (by decide), if_pos h]

theorem execDecryptBlock_ok {s : State} (h : s.ksv = true) :
    execDecryptBlock 16 s = .next (complete { s with blk := decryptWith s s.blk }) := by
  rw [execDecryptBlock, if_neg (by decide), if_neg (by simp [h])]

theorem bufferInRange_iff (s : State) :
    bufferInRange s = true ↔ s.bufOff.toNat + s.bufLen.toNat ≤ s.cfg.bufSize := by
  simp [bufferInRange]

theorem execDecryptBuf_noSchedule {s : State} (h : s.ksv = false) :
    execDecryptBuf s = .next (raiseError .noSchedule s) := by
  rw [execDecryptBuf, if_pos h]

theorem execDecryptBuf_badRange {s : State} (h : s.ksv = true)
    (hr : s.cfg.bufSize < s.bufOff.toNat + s.bufLen.toNat) :
    execDecryptBuf s = .next (raiseError .bufRange s) := by
  rw [execDecryptBuf, if_neg (by simp [h]), if_pos]
  rw [Bool.eq_false_iff]
  intro hc
  exact absurd ((bufferInRange_iff s).1 hc) (by omega)

theorem execDecryptBuf_ok {s : State} (h : s.ksv = true)
    (hr : s.bufOff.toNat + s.bufLen.toNat ≤ s.cfg.bufSize) :
    execDecryptBuf s = .next (complete (decryptBuffer s)) := by
  rw [execDecryptBuf, if_neg (by simp [h]), if_neg]
  simp [(bufferInRange_iff s).2 hr]

/-- Every command answers a next state, and it is one of these (R204, R205, R208). -/
theorem exec_cases (i : Instr) (s : State) :
    (i = .nop ∧ exec i s = .next (complete s)) ∨
    (∃ len, i = .expand len ∧ (len = 16 ∨ len = 24 ∨ len = 32) ∧
      exec i s = .next (complete (installSchedule len s))) ∨
    (∃ len, i = .expand len ∧ ¬ (len = 16 ∨ len = 24 ∨ len = 32) ∧
      exec i s = .next (raiseError .invalidKeyLength (clearSchedule s))) ∨
    (∃ len, i = .decryptBlock len ∧ len ≠ 16 ∧ exec i s = .next (raiseError .invalidBlockLength s)) ∨
    (i = .decryptBlock 16 ∧ s.ksv = false ∧ exec i s = .next (raiseError .noSchedule s)) ∨
    (i = .decryptBlock 16 ∧ s.ksv = true ∧
      exec i s = .next (complete { s with blk := decryptWith s s.blk })) ∨
    (i = .decryptBuf ∧ s.ksv = false ∧ exec i s = .next (raiseError .noSchedule s)) ∨
    (i = .decryptBuf ∧ s.ksv = true ∧ s.cfg.bufSize < s.bufOff.toNat + s.bufLen.toNat ∧
      exec i s = .next (raiseError .bufRange s)) ∨
    (i = .decryptBuf ∧ s.ksv = true ∧ s.bufOff.toNat + s.bufLen.toNat ≤ s.cfg.bufSize ∧
      exec i s = .next (complete (decryptBuffer s))) := by
  cases i with
  | nop => exact .inl ⟨rfl, rfl⟩
  | expand len =>
    by_cases h : len = 16 ∨ len = 24 ∨ len = 32
    · exact .inr (.inl ⟨len, rfl, h, execExpand_legal h s⟩)
    · exact .inr (.inr (.inl ⟨len, rfl, h, execExpand_illegal h s⟩))
  | decryptBlock len =>
    refine .inr (.inr (.inr ?_))
    by_cases h : len = 16
    · subst h
      refine .inr ?_
      by_cases hk : s.ksv = true
      · exact .inr (.inl ⟨rfl, hk, execDecryptBlock_ok hk⟩)
      · exact .inl ⟨rfl, by simpa using hk, execDecryptBlock_noSchedule (by simpa using hk)⟩
    · exact .inl ⟨len, rfl, h, execDecryptBlock_badLength h s⟩
  | decryptBuf =>
    refine .inr (.inr (.inr (.inr (.inr (.inr ?_)))))
    by_cases hk : s.ksv = true
    · by_cases hr : s.bufOff.toNat + s.bufLen.toNat ≤ s.cfg.bufSize
      · exact .inr (.inr ⟨rfl, hk, hr, execDecryptBuf_ok hk hr⟩)
      · exact .inr (.inl ⟨rfl, hk, by omega, execDecryptBuf_badRange hk (by omega)⟩)
    · exact .inl ⟨rfl, by simpa using hk, execDecryptBuf_noSchedule (by simpa using hk)⟩

/-! The engine's step. -/

/-- R188's case analysis, forwards. -/
theorem engineStep_of_decode {s : State} {v : Word} (hc : s.cur = some v) :
    (∃ i, decode v = .ok i ∧ engineStep s = exec i s) ∨
    (∃ e, decode v = .error e ∧ engineStep s = .next (raiseError .illegalCmd s)) := by
  unfold engineStep
  simp only [hc]
  cases hd : decode v with
  | ok i => exact .inl ⟨i, rfl, rfl⟩
  | error e => exact .inr ⟨e, rfl, rfl⟩

/-! One step. -/

theorem engineEnabled_iff (s : State) :
    engineEnabled s = true ↔ s.busy = true ∧ s.resetAsserted = false := by
  simp [engineEnabled]

/-- The engine's turn is its completion step. -/
theorem step_engine {s : State} (h : s.EngineNext) : step s = engineStep s.afterEvent := by
  obtain ⟨hen, he⟩ := h
  have hen' : engineEnabled s.afterEvent = true := (engineEnabled_iff _).2 hen
  unfold step nextEvent
  rcases he with he | he
  · have : s.afterEvent = s := by simp only [State.afterEvent, he, List.tail_nil]; rw [← he]
    rw [this] at hen' ⊢
    simp only [he, engineTurn, if_pos hen']
  · obtain ⟨rest, hr⟩ : ∃ rest, s.events = .engine :: rest := by
      cases hx : s.events with
      | nil => simp [hx] at he
      | cons e rest => simp [hx] at he; exact ⟨rest, by rw [he]⟩
    have haft : s.afterEvent = { s with events := rest } := by simp [State.afterEvent, hr]
    rw [haft] at hen' ⊢
    simp only [hr, takeEvent, engineTurn, if_pos hen']

/-- The host's turn is its access. -/
theorem step_host {s : State} {a : HostAccess} (h : s.events.head? = some (.host a)) :
    step s = .next (hostAccess a s.afterEvent) := by
  cases hx : s.events with
  | nil => simp [hx] at h
  | cons e rest =>
    simp [hx] at h; subst h
    simp only [step, nextEvent, hx, takeEvent, State.afterEvent, List.tail_cons]

theorem step_resetRelease {s : State} (h : s.events.head? = some .resetRelease) :
    step s = .next (resetReleaseTurn s.afterEvent) := by
  cases hx : s.events with
  | nil => simp [hx] at h
  | cons e rest =>
    simp [hx] at h; subst h
    simp only [step, nextEvent, hx, takeEvent, State.afterEvent, List.tail_cons]

/-- Everything a step can do, when it answers a next state. -/
theorem step_cases {s t : State} (h : step s = .next t) :
    (s.EngineNext ∧ engineStep s.afterEvent = .next t) ∨
    (¬ (s.busy = true ∧ s.resetAsserted = false) ∧
      (s.events = [] ∨ s.events.head? = some .engine) ∧ t = s.afterEvent) ∨
    (∃ a, s.events.head? = some (.host a) ∧ t = hostAccess a s.afterEvent) ∨
    (s.events.head? = some .resetAssert ∧ t = { s.afterEvent with resetAsserted := true }) ∨
    (s.events.head? = some .resetRelease ∧ t = resetReleaseTurn s.afterEvent) := by
  by_cases hE : s.events = [] ∨ s.events.head? = some .engine
  · by_cases hb : s.busy = true ∧ s.resetAsserted = false
    · exact .inl ⟨⟨hb, hE⟩, step_engine ⟨hb, hE⟩ ▸ h⟩
    · refine .inr (.inl ⟨hb, hE, ?_⟩)
      have hen : ¬ engineEnabled s = true := fun hc => hb ((engineEnabled_iff s).1 hc)
      cases hx : s.events with
      | nil =>
        simp only [step, nextEvent, hx, engineTurn, if_neg hen] at h
        injection h with h
        rw [← h]; simp only [State.afterEvent, hx, List.tail_nil]; rw [← hx]
      | cons e rest =>
        obtain rfl : e = .engine := by simpa [hx] using hE
        have hen' : ¬ engineEnabled { s with events := rest } = true := hen
        simp only [step, nextEvent, hx, takeEvent, engineTurn, if_neg hen'] at h
        injection h with h
        rw [← h]; simp [State.afterEvent, hx]
  · refine .inr (.inr ?_)
    cases hx : s.events with
    | nil => exact absurd (.inl hx) hE
    | cons e rest =>
      have haft : s.afterEvent = { s with events := rest } := by simp [State.afterEvent, hx]
      simp only [step, nextEvent, hx] at h
      rw [haft]
      cases e with
      | engine => exact absurd (.inr (by simp [hx])) hE
      | host a => injection h with h; exact .inl ⟨a, rfl, h.symm⟩
      | resetAssert => injection h with h; exact .inr (.inl ⟨rfl, h.symm⟩)
      | resetRelease => injection h with h; exact .inr (.inr ⟨rfl, h.symm⟩)

end Sys2Proof.Machine
end

