-- ==== Sys2Proof/Laws/Turns.lean ====
section
/-!
SUPPORT. One turn, said once for each agent: what the engine's completion leaves, what an accepted host
access leaves, and what a good state needs to stay good.
-/

namespace Sys2Proof.Machine

/-! The engine's turn. -/

/-- `exec_cases`, read backwards from the next state. -/
theorem exec_next {i : Instr} {s t : State} (h : exec i s = .next t) :
    (i = .nop ∧ t = complete s) ∨
    (∃ len, i = .expand len ∧ (len = 16 ∨ len = 24 ∨ len = 32) ∧
      t = complete (installSchedule len s)) ∨
    (∃ len, i = .expand len ∧ ¬ (len = 16 ∨ len = 24 ∨ len = 32) ∧
      t = raiseError .invalidKeyLength (clearSchedule s)) ∨
    (∃ len, i = .decryptBlock len ∧ len ≠ 16 ∧ t = raiseError .invalidBlockLength s) ∨
    (i = .decryptBlock 16 ∧ s.ksv = false ∧ t = raiseError .noSchedule s) ∨
    (i = .decryptBlock 16 ∧ s.ksv = true ∧ t = complete { s with blk := decryptWith s s.blk }) ∨
    (i = .decryptBuf ∧ s.ksv = false ∧ t = raiseError .noSchedule s) ∨
    (i = .decryptBuf ∧ s.ksv = true ∧ s.cfg.bufSize < s.bufOff.toNat + s.bufLen.toNat ∧
      t = raiseError .bufRange s) ∨
    (i = .decryptBuf ∧ s.ksv = true ∧ s.bufOff.toNat + s.bufLen.toNat ≤ s.cfg.bufSize ∧
      t = complete (decryptBuffer s)) := by
  have hc := exec_cases i s
  rw [h] at hc
  simpa only [Host.Outcome.next.injEq] using hc

/-- What the engine's turn can be: the decoded command, or ILLEGAL_CMD (R188). -/
theorem engine_next {s t : State} (hE : s.EngineNext) (h : step s = .next t) :
    ∃ v, s.cur = some v ∧
      ((∃ i, decode v = .ok i ∧ exec i s.afterEvent = .next t) ∨
       (IllegalWord v ∧ t = raiseError .illegalCmd s.afterEvent)) := by
  rw [step_engine hE] at h
  cases hc : s.cur with
  | none => simp [engineStep, hc] at h
  | some v =>
    refine ⟨v, rfl, ?_⟩
    rcases engineStep_of_decode (s := s.afterEvent) hc with ⟨i, hd, h'⟩ | ⟨e, hd, h'⟩
    · exact .inl ⟨i, hd, h' ▸ h⟩
    · rw [h'] at h
      injection h with h
      exact .inr ⟨(illegalWord_iff v).2 ⟨e, hd⟩, h.symm⟩

/-- The completion's STATUS fields, and what no command writes (R204, R205, R56). -/
theorem exec_status {i : Instr} {s t : State} (h : exec i s = .next t) :
    t.done = true ∧ t.busy = false ∧ t.cur = none ∧ t.ovr = s.ovr ∧
    (t.errcode = 0 → t.err = s.err) ∧ (t.errcode ≠ 0 → t.err = true) ∧
    t.resetAsserted = s.resetAsserted ∧ t.resp = s.resp ∧ t.cfg = s.cfg ∧ t.key = s.key ∧
    t.bufOff = s.bufOff ∧ t.bufLen = s.bufLen ∧ t.events = s.events := by
  rcases exec_next h with ⟨-, rfl⟩ | ⟨len, -, -, rfl⟩ | ⟨len, -, -, rfl⟩ | ⟨len, -, -, rfl⟩ |
      ⟨-, -, rfl⟩ | ⟨-, -, rfl⟩ | ⟨-, -, rfl⟩ | ⟨-, -, -, rfl⟩ | ⟨-, -, -, rfl⟩ <;>
    simp [EngineError.code, decryptBuffer]

/-! The host's turn. -/

/-- An aligned 4-byte read is the read of the register at its offset (R180). -/
theorem step_read {s : State} {addr : Nat} (h : s.HostNext (.rd addr 4)) (h4 : addr % 4 = 0) :
    step s = .next (readReg (regAt s.cfg (addr % 0x10000)) s.afterEvent) := by
  rw [step_host h.1, hostAccess, if_neg (by simp [h.2])]
  simp only
  rw [if_pos ((accessOk_iff _ _).2 ⟨rfl, h4⟩)]
  rfl

/-- An aligned 4-byte write is the write of the register at its offset (R181). -/
theorem step_write {s : State} {addr : Nat} {v : Word} (h : s.HostNext (.wr addr 4 v))
    (h4 : addr % 4 = 0) :
    step s = .next (writeReg v (regAt s.cfg (addr % 0x10000)) s.afterEvent) := by
  rw [step_host h.1, hostAccess, if_neg (by simp [h.2])]
  simp only
  rw [if_pos ((accessOk_iff _ _).2 ⟨rfl, h4⟩)]
  rfl

/-- No host access changes the schedule, ERRCODE or the reset input, and none starts or ends a running
command (R27, R65, R186). -/
theorem hostAccess_frame (a : HostAccess) (s : State) :
    (hostAccess a s).rk = s.rk ∧ (hostAccess a s).ksv = s.ksv ∧ (hostAccess a s).nk = s.nk ∧
    (hostAccess a s).nr = s.nr ∧ (hostAccess a s).errcode = s.errcode ∧
    (s.busy = true → (hostAccess a s).busy = true ∧ (hostAccess a s).cur = s.cur) ∧
    (hostAccess a s).events = s.events ∧ (hostAccess a s).resetAsserted = s.resetAsserted := by
  rcases hostAccess_cases a s with ⟨r, d, h⟩ | ⟨addr, v, -, -, -, h⟩ <;> rw [h]
  · exact ⟨rfl, rfl, rfl, rfl, rfl, fun h => ⟨h, rfl⟩, rfl, rfl⟩
  · have hf := storeReg_frame v s (regAt s.cfg (addr % 0x10000))
    rcases writeReg_cases v (regAt s.cfg (addr % 0x10000)) s with
      ⟨-, h1⟩ | ⟨-, -, h1⟩ | ⟨-, -, h1⟩ | ⟨-, hb, h1⟩ <;> rw [h1]
    · exact ⟨rfl, rfl, rfl, rfl, rfl, fun h => ⟨h, rfl⟩, rfl, rfl⟩
    · exact ⟨rfl, rfl, rfl, rfl, rfl, fun h => ⟨h, rfl⟩, rfl, rfl⟩
    · exact ⟨rfl, rfl, rfl, rfl, rfl, fun h => ⟨h, rfl⟩, rfl, rfl⟩
    · exact ⟨hf.1, hf.2.1, hf.2.2.1, hf.2.2.2.1, hf.2.2.2.2.2.2.1,
        fun h : s.busy = true => absurd h (by simp [hb]), hf.2.2.2.2.2.2.2.2.1,
        hf.2.2.2.2.2.2.2.2.2.1⟩

/-- Byte `j` of a packed word (R31). -/
theorem extract_wordOf (b0 b1 b2 b3 : Byte) {j : Nat} (hj : j < 4) :
    (wordOf b0 b1 b2 b3).extractLsb' (8 * j) 8 = [b0, b1, b2, b3].getD j 0 := by
  have hb := byteOf_wordOf b0 b1 b2 b3
  interval_cases j
  · exact hb.1
  · exact hb.2.1
  · exact hb.2.2.1
  · exact hb.2.2.2

/-- Byte `j` of word `i` of an array (R31). -/
theorem extract_wordAt {n : Nat} (xs : Vector Byte n) (i : Nat) {j : Nat} (hj : j < 4) :
    (wordAt xs i).extractLsb' (8 * j) 8 = byteAt xs (4 * i + j) := by
  rw [wordAt, extract_wordOf _ _ _ _ hj]
  interval_cases j <;> rfl

/-! The schedule and good states. -/

/-- A prefix just written is the prefix that is there. -/
theorem take_putPrefix {n : Nat} (xs : Vector Byte n) (bs : List Byte) (h : bs.length ≤ n) :
    (putPrefix xs bs).toList.take bs.length = bs := by
  refine List.ext_getElem (by simp; omega) fun i h1 h2 => ?_
  have hb := byteAt_putPrefix xs bs (k := i) (by omega)
  rw [byteAt_eq _ (by omega), List.getElem?_eq_getElem h2] at hb
  simpa using hb

/-- The schedule invariant looks at KSV, NK, NR and RK only. -/
theorem scheduleInv_congr {s t : State} (h : s.scheduleInv) (h1 : t.ksv = s.ksv) (h2 : t.nk = s.nk)
    (h3 : t.nr = s.nr) (h4 : t.rk = s.rk) : t.scheduleInv := by
  intro hk
  have hs := h (h1 ▸ hk)
  unfold schedule at *
  rw [h2, h3, h4]
  exact hs

/-- A state with a good state's schedule and parameters is good when its latch, ERRCODE and DBUF are. -/
theorem good_congr {s t : State} (h : s.Good) (h0 : t.latchInv) (h1 : t.ksv = s.ksv)
    (h2 : t.nk = s.nk) (h3 : t.nr = s.nr) (h4 : t.rk = s.rk) (h5 : t.errcodeInv) (h6 : t.bufferInv)
    (h7 : t.cfg = s.cfg) : t.Good :=
  ⟨h0, fun hk => by rw [h2, h3]; exact h.2 (h1 ▸ hk), scheduleInv_congr h.3 h1 h2 h3 h4, h5, h6, h7 ▸ h.6⟩

end Sys2Proof.Machine
end

