-- ==== Sys2Proof/Machine/HostSyntax.lean ====
section
/-!
DEFINITION. The notation of host programs (R86, R87), as lists of events. It is not part of the hardware:
it says which accesses a line of a host program makes. `wait` is a loop of STATUS reads in the spec; in
the model's order of events it ends once the engine has had its turn, so it is that turn and one read.
-/

namespace Sys2Proof.Machine

/-- The offset of a register (R26); it is the inverse of `regAt` on the registers the map names. -/
def Reg.offset : Reg → Nat
  | .cmd => 0x000
  | .status => 0x004
  | .bufOff => 0x008
  | .bufLen => 0x00C
  | .key i => 0x020 + 4 * i
  | .blk i => 0x040 + 4 * i
  | .rk i => 0x100 + 4 * i
  | .dbuf i => 0x1000 + 4 * i
  | .reserved => 0x010

/-- `wr REG, imm32` (R86). -/
def lineWr (cfg : Config) (r : Reg) (v : Word) : List Event :=
  [.host (.wr (cfg.winBase + r.offset) 4 v)]

/-- `rd REG -> name` (R86). -/
def lineRd (cfg : Config) (r : Reg) : List Event := [.host (.rd (cfg.winBase + r.offset) 4)]

/-- `cmd ...` (R86): a write of the command's word to CMD. `cmd RAW imm32` is `lineWr cfg .cmd imm32`. -/
def lineCmd (cfg : Config) (i : Instr) : List Event := lineWr cfg .cmd (encode i)

/-- `wait` (R87). -/
def lineWait (cfg : Config) : List Event := .engine :: lineRd cfg .status

/-- `clr` (R87). -/
def lineClr (cfg : Config) : List Event := lineWr cfg .status 0x0000000E

/-- Word `i` of a byte string, packed little-endian (R87). -/
def stringWord (bs : List Byte) (i : Nat) : Word :=
  wordOf (bs.getD (4 * i) 0) (bs.getD (4 * i + 1) 0) (bs.getD (4 * i + 2) 0) (bs.getD (4 * i + 3) 0)

/-- Writes of every word of a byte string to the registers `r 0`, `r 1`, ... -/
def writeString (cfg : Config) (r : Nat → Reg) (bs : List Byte) : List Event :=
  (List.range (bs.length / 4)).flatMap fun i => lineWr cfg (r i) (stringWord bs i)

/-- Reads of `n` words from the registers `r 0`, `r 1`, ... -/
def readWords (cfg : Config) (r : Nat → Reg) (n : Nat) : List Event :=
  (List.range n).flatMap fun i => lineRd cfg (r i)

/-- `wrkey HEX` (R87). -/
def lineWrkey (cfg : Config) (bs : List Byte) : List Event := writeString cfg .key bs

/-- `wrblk HEX` (R87). -/
def lineWrblk (cfg : Config) (bs : List Byte) : List Event := writeString cfg .blk bs

/-- `rdblk -> name` (R87). -/
def lineRdblk (cfg : Config) : List Event := readWords cfg .blk 4

/-- `wrbuf off, HEX` (R87). -/
def lineWrbuf (cfg : Config) (off : Nat) (bs : List Byte) : List Event :=
  writeString cfg (fun i => .dbuf (off / 4 + i)) bs

/-- `rdbuf off, n -> name` (R87). -/
def lineRdbuf (cfg : Config) (off n : Nat) : List Event :=
  readWords cfg (fun i => .dbuf (off / 4 + i)) (n / 4)

/-- `expand HEX` (R87). -/
def lineExpand (cfg : Config) (bs : List Byte) : List Event :=
  lineWrkey cfg bs ++ lineCmd cfg (.expand bs.length) ++ lineWait cfg

/-- `decrypt HEX -> name` (R87). -/
def lineDecrypt (cfg : Config) (bs : List Byte) : List Event :=
  lineWrblk cfg bs ++ lineCmd cfg (.decryptBlock 16) ++ lineWait cfg ++ lineRdblk cfg

end Sys2Proof.Machine
end

