-- ==== Sys2Proof/Tests/Slice0.lean ====
section
/-!
SUPPORT. The model's own tests, and for every statement with hypotheses a witness that meets them all.
Every expected value is the spec's (95_test_vectors.md and the worked examples of the rules), never the
model's own answer.
-/

namespace Sys2Proof.Tests

open Sys2Proof.Machine

set_option Elab.async false

/-! Helpers: byte strings as the spec prints them (R8), and small states. -/

/-- The `n` bytes of a number written in hexadecimal, first byte first. -/
def hex (n v : Nat) : List Byte :=
  (List.range n).map fun i => BitVec.ofNat 8 (v / 256 ^ (n - 1 - i) % 256)

/-- The same as a block. -/
def hexBlock (v : Nat) : Block := Vector.ofFn fun k => BitVec.ofNat 8 (v / 256 ^ (15 - k.val) % 256)

/-- The outcome is a next state that passes the check. -/
def answers (o : Host.Outcome State Fault Refusal) (p : State → Bool) : Bool :=
  match o with
  | .next t => p t
  | .fault _ => false
  | .refused _ => false

theorem exists_next {o : Host.Outcome State Fault Refusal} {p : State → Bool}
    (h : answers o p = true) : ∃ t, o = .next t ∧ p t = true := by
  cases o with
  | next t => exact ⟨t, rfl, h⟩
  | fault f => cases h
  | refused r => cases h

/-- The state with a command latched and the engine's turn next. -/
abbrev latched (v : Word) (s : State) : State := latchCommand v s

/-- The state with one host access next. -/
abbrev asked (a : HostAccess) (s : State) : State := { s with events := [.host a] }

/-- A busy state with one host access next. -/
abbrev busyAsked (v : Word) (a : HostAccess) (s : State) : State := asked a (acceptCommand v s)

/-- STATUS as the next state has it. -/
def statusIs (v : Word) (o : Host.Outcome State Fault Refusal) : Bool :=
  answers o fun t => statusWord t = v

/-- The bus answered with this value. -/
def readsAs (v : Word) (o : Host.Outcome State Fault Refusal) : Bool :=
  answers o fun t => t.resp = .data v

def keyed (bs : List Byte) : State := { State.reset with key := putPrefix (Vector.replicate 32 0) bs }

def kat128 : List Byte := hex 16 0x000102030405060708090a0b0c0d0e0f
def kat256 : List Byte := hex 32 0x000102030405060708090a0b0c0d0e0f101112131415161718191a1b1c1d1e1f
def ct128 : Block := hexBlock 0x69c4e0d86a7b0430d8cdb78070b4c55a
def pt : Block := hexBlock 0x00112233445566778899aabbccddeeff

/-- The KAT-128 schedule is valid and STATUS is 0x0004A102. -/
def ready : State := { installSchedule 16 (keyed kat128) with done := true }

/-- A buffer description and the RAM it describes. -/
def buffered (off len : Word) (at_ : Nat) (bs : List Byte) (s : State) : State :=
  { s with bufOff := off, bufLen := len, dbuf := Memory.writeBytes [] at_ bs }

/-- Two equal chunks, which are BLK as well. -/
def twoChunks : State :=
  { buffered 0 32 0 (ct128.toList ++ ct128.toList) ready with blk := ct128 }

/-! WellFormed refuses an operand that the LEN field cannot hold. -/

theorem test_wellFormed_refuses_len_256 :
    (Instr.expand 256).wellFormed = false ∧ (Instr.decryptBlock 256).wellFormed = false ∧
    (Instr.expand 255).wellFormed = true ∧ (Instr.decryptBlock 255).wellFormed = true := by decide

/-! Decoding: words written out bit by bit from R80's pattern (RSV1, LEN, RSV0, OP). -/

theorem test_decode_nop : decode 0b0000000000000000_00000000_0000_0000 = .ok .nop := by decide
theorem test_decode_expand :
    decode 0b0000000000000000_00010000_0000_0001 = .ok (.expand 16) ∧
    decode 0b0000000000000000_11111111_0000_0001 = .ok (.expand 255) := by decide
theorem test_decode_decryptBlock :
    decode 0b0000000000000000_00010000_0000_0010 = .ok (.decryptBlock 16) ∧
    decode 0b0000000000000000_00000000_0000_0010 = .ok (.decryptBlock 0) := by decide
theorem test_decode_decryptBuf : decode 0b0000000000000000_00000000_0000_0011 = .ok .decryptBuf := by decide
theorem test_decode_rejects :
    decode 0b0000000000000000_00000000_0000_0100 = .error .reservedOp ∧
    decode 0b0000000000000000_00000000_0000_1111 = .error .reservedOp ∧
    decode 0b0000000000000000_00000000_0001_0000 = .error .rsv0NotZero ∧
    decode 0b0000000000000001_00000000_0000_0000 = .error .rsv1NotZero ∧
    decode 0b1000000000000000_00000000_0000_0001 = .error .rsv1NotZero ∧
    decode 0b0000000000000000_00000001_0000_0000 = .error .lenNotZero ∧
    decode 0b0000000000000000_00000001_0000_0011 = .error .lenNotZero := by decide
theorem test_decodeTableWord :
    decodeTableWord 32 0x00000000 = some .nop ∧ decodeTableWord 32 0x00000001 = some (.expand 0) ∧
    decodeTableWord 32 0x00000002 = some (.decryptBlock 0) ∧
    decodeTableWord 32 0x00000003 = some .decryptBuf ∧ decodeTableWord 32 0x00000004 = none := by decide
theorem test_encode :
    encode .nop = 0x00000000 ∧ encode (.expand 24) = 0x00001801 ∧
    encode (.decryptBlock 16) = 0x00001002 ∧ encode .decryptBuf = 0x00000003 := by decide

/-! The commands, one step each. -/

/-- CTL-2. -/
theorem test_nop_from_reset :
    statusIs 0x00000002 (step (State.reset.withFetchWord 32 0x00000000)) = true := by decide +kernel
/-- CTL-8: a NOP resets ERRCODE and leaves ERR. -/
theorem test_nop_keeps_err :
    statusIs 0x00000006 (step (latched 0x00000000 { State.reset with err := true, errcode := 1 })) = true := by
  decide +kernel
/-- EX-1 and the FIPS A.1 words of section 2.2. -/
theorem test_expand_128 :
    answers (step (latched 0x00001001 (keyed (hex 16 0x2b7e151628aed2a6abf7158809cf4f3c)))) (fun t =>
      statusWord t = 0x0004A102 ∧ rkWord t 4 = 0x17FEFAA0 ∧ rkWord t 43 = 0xA60C63B6 ∧
        rkWord t 44 = 0x00000000) = true := by decide +kernel
/-- LEN-K20v: the old schedule is invalidated, and RK0 reads 0. -/
theorem test_expand_20 :
    answers (step (latched 0x00001401 ready)) (fun t =>
      statusWord t = 0x00000016 ∧ rkWord t 0 = 0) = true := by decide +kernel
/-- DB-1. -/
theorem test_decryptBlock_128 :
    answers (step (latched 0x00001002 { ready with blk := ct128 })) (fun t =>
      statusWord t = 0x0004A102 ∧ t.blk = pt) = true := by decide +kernel
/-- LEN-B17r and DB-2. -/
theorem test_decryptBlock_errors :
    statusIs 0x00000026 (step (latched 0x00001102 State.reset)) = true ∧
    statusIs 0x00000036 (step (latched 0x00001002 State.reset)) = true := by decide +kernel
/-- BUF-2: an unaligned buffer, DBUF words 0 and 4. -/
theorem test_decryptBuf_unaligned :
    answers (step (latched 0x00000003
      (buffered 3 16 0 (hex 3 0xeeeeee ++ ct128.toList ++ hex 1 0xee) ready))) (fun t =>
        statusWord t = 0x0004A102 ∧ dbufWord t 0 = 0x00EEEEEE ∧ dbufWord t 1 = 0x44332211 ∧
          dbufWord t 4 = 0xEEFFEEDD) = true := by decide +kernel
/-- BUF-5 to BUF-11: the range check at its edges, and the sum that does not wrap. -/
theorem test_decryptBuf_range :
    ([((4096 : Word), (0 : Word)), (4095, 1)].all fun p =>
      statusIs 0x0004A102 (step (latched 0x00000003 (buffered p.1 p.2 0 [] ready)))) = true ∧
    ([((4080 : Word), (17 : Word)), (0, 4097), (4097, 0), (0xFFFFFFF0, 0x20), (0xFFFFFFFF, 1)].all fun p =>
      statusIs 0x0004A156 (step (latched 0x00000003 (buffered p.1 p.2 0 [] ready)))) = true := by
  decide +kernel
/-- CTL-3 and CTL-4: illegal words. -/
theorem test_illegal_words :
    ([(0x00000004 : Word), 0x0000000F, 0x00000010, 0x00010000, 0x80000001, 0x00000100, 0x00000103].all
      fun v => statusIs 0x00000046 (step (latched v State.reset))) = true ∧
    statusIs 0x0004A146 (step (latched 0x00000103 ready)) = true := by decide +kernel

/-! The datapath (sections 1.1, 2.1 to 2.3). -/

theorem test_kat_256 :
    invCipher (expandKey kat256) 14 (hexBlock 0x8ea2b7ca516745bfeafc49904b496089) = pt := by
  decide +kernel
theorem test_expand_192_last_round_key :
    (expandKey (hex 24 0x8e73b0f7da0e6452c810f32b809079e562f8ead2522c6b7b)).drop 192 =
      hex 16 0xe98ba06f448c773c8ecc720401002202 := by decide +kernel
theorem test_units :
    isr (hexBlock 0x000102030405060708090a0b0c0d0e0f) = hexBlock 0x000d0a0704010e0b0805020f0c090603 ∧
    isb (hexBlock 0x000102030405060708090a0b0c0d0e0f) = hexBlock 0x52096ad53036a538bf40a39e81f3d7fb ∧
    isrsb (hexBlock 0x000102030405060708090a0b0c0d0e0f) = hexBlock 0x52f3a3383009d79ebf366afb8140a5d5 ∧
    imc (hexBlock 0x000102030405060708090a0b0c0d0e0f) = hexBlock 0x0a0f080d0e0b0c090207000506030401 ∧
    imcsbsr (hexBlock 0x000102030405060708090a0b0c0d0e0f) = hexBlock 0xa3d55240d7fb30366a9ebf09a53881f3 := by
  decide +kernel
theorem test_imc_columns :
    imc (hexBlock 0x8e4da1bc9fdc589d010000004d7ebdf8) = hexBlock 0xdb135345f20a225c0e090d0b2d26314c := by
  decide +kernel
theorem test_gf :
    gmul 0x0E 0x09 = 0x7E ∧ gmul 0x57 0x83 = 0xC1 ∧ xtime 0xFF = 0xE5 ∧ mul9 0xFF = 0x46 ∧
    mulB 0x80 = 0xF7 ∧ mulD 0xFF = 0x97 ∧ mulE 0x80 = 0x41 ∧ sbox 0x01 = 0x7C ∧ invSbox 0xFF = 0x7D ∧
    rcon 10 = 0x36 := by decide +kernel

/-! Host accesses (section 2.7). -/

/-- CTL-5, CTL-6, CTL-7. -/
theorem test_status_write :
    ([((0x00000004 : Word), (0x00000012 : Word)), (0xFFFFFFFF, 0x00000010), (0x00000001, 0x00000016)].all
      fun p => statusIs p.2 (step (asked (.wr 0x004 4 p.1)
        { State.reset with done := true, err := true, errcode := 1 }))) = true := by decide +kernel
/-- CTL-10, CTL-11: a bus error and no effect. -/
theorem test_bus_errors :
    answers (step (asked (.wr 0x020 1 0xFF) (keyed kat128))) (fun t =>
      t.resp = .busErr ∧ wordAt t.key 0 = 0x03020100) = true ∧
    answers (step (asked (.rd 0x022 4) State.reset)) (fun t => t.resp = .busErr) = true := by
  decide +kernel
/-- CTL-9, CTL-12, CTL-18: CMD, a reserved offset and RK0 without a schedule read 0. -/
theorem test_zero_reads :
    ([0x000, 0x010, 0x100].all fun off => readsAs 0 (step (asked (.rd off 4) State.reset))) = true := by
  decide +kernel
/-- CTL-13, CTL-14, CTL-17: writes while busy. -/
theorem test_busy_writes :
    answers (step (busyAsked 0x00001002 (.wr 0x020 4 0) (keyed kat128))) (fun t =>
      t.ovr ∧ wordAt t.key 0 = 0x03020100) = true ∧
    answers (step (busyAsked 0x00001002 (.wr 0x100 4 0) State.reset)) (fun t => !t.ovr) = true ∧
    answers (step (busyAsked 0x00001002 (.wr 0x000 4 0) State.reset)) (fun t =>
      t.ovr ∧ t.cur = some 0x00001002) = true := by decide +kernel
/-- CTL-16: KEY0 is not in flight. -/
theorem test_busy_key_read :
    readsAs 0x03020100 (step (busyAsked 0x00001002 (.rd 0x020 4) (keyed kat128))) = true := by
  decide +kernel
/-- R87's notation: the events of `wait`, and KEY0 of `wrkey` as section 1.1 packs it. -/
theorem test_host_syntax :
    lineWait Config.reference = [.engine, .host (.rd 0x004 4)] ∧
    lineCmd Config.reference (.expand 16) = [.host (.wr 0x000 4 0x00001001)] ∧
    (lineWrkey Config.reference kat128).head? = some (.host (.wr 0x020 4 0x03020100)) ∧
    lineRdbuf Config.reference 0x20 8 = [.host (.rd 0x1020 4), .host (.rd 0x1024 4)] := by decide +kernel

/-! Good states. -/

theorem ready_flags : ready.resetAsserted = false ∧ ready.busy = false := by decide +kernel

theorem latched_engineNext (v : Word) (s : State) : (latched v s).EngineNext ∧ (latched v s).cur = some v :=
  ⟨⟨⟨rfl, rfl⟩, .inr rfl⟩, rfl⟩

theorem test_reset_good : State.reset.Good :=
  ⟨by decide, by decide, by decide +kernel, by decide, by decide +kernel, by decide⟩
theorem test_ready_good : ready.Good :=
  ⟨by decide +kernel, by decide +kernel, by decide +kernel, by decide +kernel, by decide +kernel,
    by decide +kernel⟩
theorem test_latched_good : (latched 0x00001001 State.reset).Good :=
  good_congr test_reset_good (by decide) (by rfl) (by rfl) (by rfl) (by rfl) (by decide)
    (by decide +kernel) (by rfl)

/-! Witnesses: each shows a state and operands that meet every hypothesis of the statement it is named
after, clause by clause, at the edges of the ranges. -/

theorem wit_DecodeOfEncodeIsTheCommand :
    ∀ i ∈ [Instr.nop, .expand 0, .expand 255, .decryptBlock 0, .decryptBlock 255, .decryptBuf],
      i.wellFormed = true := by decide
theorem wit_EncodeOfDecodeIsTheWord :
    decode 0x0000FF01 = .ok (.expand 255) ∧ decode 0x00000002 = .ok (.decryptBlock 0) ∧
    decode 0x00000000 = .ok .nop ∧ decode 0x00000003 = .ok .decryptBuf := by decide
theorem wit_OpcodeTableSelectsTheCommand :
    ∀ i ∈ [Instr.nop, .expand 255, .decryptBlock 0, .decryptBuf],
      i.row ∈ opcodeTable ∧ i.row.matchesWord (encode i) = true := by decide
theorem wit_IllegalWordsCompleteWithIllegalCmd :
    (IllegalWord 0x00000004 ∧ IllegalWord 0x0000000F ∧ IllegalWord 0x00000010 ∧ IllegalWord 0x00000080 ∧
      IllegalWord 0x00010000 ∧ IllegalWord 0x80000000 ∧ IllegalWord 0x00000100 ∧ IllegalWord 0x0000FF03) ∧
    ∀ v, (latched v State.reset).EngineNext ∧ (latched v State.reset).cur = some v :=
  ⟨by unfold IllegalWord; decide, fun v => latched_engineNext v _⟩
theorem wit_StepRunsTheDecodedCommand :
    (latched 0x0000FF01 State.reset).EngineNext ∧ (latched 0x0000FF01 State.reset).cur = some 0x0000FF01 ∧
    decode 0x0000FF01 = .ok (.expand 255) ∧ (Instr.expand 255).wellFormed = true :=
  ⟨(latched_engineNext _ _).1, rfl, by decide, by decide⟩
theorem wit_EngineStepEnabledExactlyWhenBusy :
    (State.reset.busy = false ∧ State.reset.events = []) ∧
    (State.reset.busy = false ∧ ({ State.reset with events := [.engine] } : State).events.head? = some .engine) ∧
    (latched 0x00001001 State.reset).Good ∧ (latched 0x00001001 State.reset).EngineNext :=
  ⟨⟨rfl, rfl⟩, ⟨rfl, rfl⟩, test_latched_good, (latched_engineNext _ _).1⟩
theorem wit_CompletionWithoutErrorSetsStatus :
    (latched 0x00000000 State.reset).EngineNext ∧
    ∃ t, step (latched 0x00000000 State.reset) = .next t ∧ decide (t.errcode = 0) = true :=
  ⟨(latched_engineNext _ _).1, exists_next (by decide +kernel)⟩
theorem wit_ErrorsArePrecise :
    (latched 0x00001401 ready).EngineNext ∧
    (∃ t, step (latched 0x00001401 ready) = .next t ∧ decide (t.errcode = 1) = true) ∧
    ∃ t, step (latched 0x00001102 ready) = .next t ∧ decide (t.errcode = 2) = true :=
  ⟨(latched_engineNext _ _).1, exists_next (by decide +kernel), exists_next (by decide +kernel)⟩
/-- Every clause, at its edges: the latched word, whether there is a schedule, BUF_OFF + BUF_LEN, and the
code of R208. -/
theorem wit_ErrorCodeIsTheFirstThatApplies :
    ([((0x00000004 : Word), (4 : BitVec 4)), (0x00010001, 4), (0x00000000, 0), (0x00000F01, 1),
        (0x00001001, 0), (0x00001101, 1), (0x00001801, 0), (0x00002001, 0), (0x00002101, 1),
        (0x00000F02, 2), (0x00001002, 3), (0x00000003, 3)].all fun p =>
      answers (step (latched p.1 State.reset)) (fun t => t.errcode = p.2)) = true ∧
    answers (step (latched 0x00001002 ready)) (fun t => t.errcode = 0) = true ∧
    answers (step (latched 0x00000003 (buffered 4095 1 0 [] ready))) (fun t => t.errcode = 0) = true ∧
    answers (step (latched 0x00000003 (buffered 4095 2 0 [] ready))) (fun t => t.errcode = 5) = true := by
  decide +kernel
theorem wit_ExpandInstallsTheSchedule : ∀ len ∈ [16, 24, 32], len = 16 ∨ len = 24 ∨ len = 32 := by decide
theorem wit_ExpandOfABadLengthInvalidatesTheSchedule :
    (∀ len ∈ [0, 15, 17, 23, 25, 31, 33, 255], ¬ (len = 16 ∨ len = 24 ∨ len = 32)) ∧
    State.reset.ksv = false ∧ (latched 0x00001001 State.reset).ksv = false ∧
    ∃ u, step (latched 0x00001001 State.reset) = .next u ∧ u.ksv = true :=
  ⟨by decide, rfl, rfl, exists_next (p := fun u => u.ksv) (by decide +kernel)⟩
theorem wit_DecryptBlockDecryptsInPlace : ready.ksv = true := by decide +kernel
theorem wit_DecryptBlockRejectsOtherLengths : ∀ len ∈ [0, 15, 17, 255], len ≠ 16 := by decide
theorem wit_DecryptionsNeedASchedule :
    State.reset.ksv = false ∧
    ∃ t, exec (.expand 15) State.reset = .next t ∧ decide (t.errcode ≠ 0) = true :=
  ⟨rfl, exists_next (by decide +kernel)⟩
theorem wit_DecryptBufChecksTheRange :
    ready.ksv = true ∧
    (let s := buffered 0xFFFFFFFF 1 0 [] ready
     s.cfg.bufSize < s.bufOff.toNat + s.bufLen.toNat) ∧
    (let s := buffered 4080 17 0 [] ready
     s.cfg.bufSize < s.bufOff.toNat + s.bufLen.toNat) ∧
    (let s := buffered 4096 0 0 [] ready
     s.bufOff.toNat + s.bufLen.toNat ≤ s.cfg.bufSize) := by decide +kernel
/-- Chunk 0 is written, chunk 1 has an UNWRITTEN byte (its last). -/
theorem wit_DecryptBufDecryptsEveryFullChunk :
    let s := buffered 1 32 1 (hex 31 0) ready
    s.ksv = true ∧ s.bufOff.toNat + s.bufLen.toNat ≤ s.cfg.bufSize ∧ 1 < s.bufLen.toNat / 16 ∧
    Memory.HoldsBlock s.dbuf (s.bufOff.toNat + 16 * 0) (hexBlock 0) ∧
    ∃ j < 16, Memory.read s.dbuf (s.bufOff.toNat + 16 * 1 + j) = none := by
  unfold Memory.HoldsBlock; decide +kernel
/-- BUF-1: a 17-byte buffer; `m` differs from DBUF in the tail byte, and chunk 0 is wholly written. -/
theorem wit_DecryptBufLeavesTheTailAlone :
    let s := buffered 0 17 0 (ct128.toList ++ [0xAA]) ready
    let m := Memory.writeBytes [] 0 (ct128.toList ++ [0x55])
    (∃ t, exec .decryptBuf s = .next t ∧
      decide (t.errcode = 0 ∧ Memory.read t.dbuf 16 = some 0xAA) = true) ∧
    (∃ u, exec .decryptBuf { s with dbuf := m } = .next u ∧ decide (u.errcode = 0) = true) ∧
    s.bufOff.toNat + 16 * (s.bufLen.toNat / 16) ≤ 16 ∧
    (∀ a < 16, Memory.read m a = Memory.read s.dbuf a) ∧
    0 < s.bufLen.toNat / 16 ∧ ∀ j < 16, (Memory.read s.dbuf (s.bufOff.toNat + 16 * 0 + j)).isSome :=
  ⟨exists_next (by decide +kernel), exists_next (by decide +kernel), by decide +kernel, by decide +kernel,
    by decide +kernel, by decide +kernel⟩
/-- Section 1.5's property on KAT-128: every clause's hypotheses at once, with `s' = s`. -/
theorem wit_NoChaining :
    (∃ t, exec .decryptBuf twoChunks = .next t ∧
      (t.errcode = 0 && (List.range 32).all fun j => Memory.read t.dbuf j = some (byteAt pt (j % 16))) = true) ∧
    (∃ u, exec (.decryptBlock 16) twoChunks = .next u ∧ decide (u.blk = pt) = true) ∧
    twoChunks.bufLen = 32 ∧ twoChunks.bufOff.toNat = 0 ∧ 1 < twoChunks.bufLen.toNat / 16 ∧
    twoChunks.blk = ct128 ∧
    ((List.range 32).all fun j => Memory.read twoChunks.dbuf j = some (byteAt ct128 (j % 16))) = true :=
  ⟨exists_next (p := fun t => t.errcode = 0 &&
      (List.range 32).all fun j => Memory.read t.dbuf j = some (byteAt pt (j % 16))) (by decide +kernel),
    exists_next (by decide +kernel), by decide +kernel, by decide +kernel, by decide +kernel,
    by decide +kernel, by decide +kernel⟩
theorem wit_CommandsWriteOnlyTheirTargets :
    (∃ t, exec .nop ready = .next t ∧ true = true) ∧ (∃ t, exec (.expand 16) ready = .next t ∧ t.ksv = true) ∧
    (∃ t, exec (.decryptBlock 16) ready = .next t ∧ t.ksv = true) ∧
    ∃ t, exec .decryptBuf (buffered 0 17 0 [] ready) = .next t ∧ t.ksv = true :=
  ⟨exists_next (p := fun _ => true) (by decide +kernel), exists_next (p := fun t => t.ksv) (by decide +kernel),
    exists_next (p := fun t => t.ksv) (by decide +kernel), exists_next (p := fun t => t.ksv) (by decide +kernel)⟩
/-- KS-C1: KEY4..KEY7 do not matter for a 16-byte key. -/
theorem wit_ExpandReadsOnlyItsKeyBytes :
    (∀ i < 16, byteAt (putPrefix (Vector.replicate 32 0xFF) kat128) i = byteAt (keyed kat128).key i) ∧
    ∃ t, exec (.expand 16) (keyed kat128) = .next t ∧ t.ksv = true :=
  ⟨by decide +kernel, exists_next (p := fun t => t.ksv) (by decide +kernel)⟩
theorem wit_DecryptBlockIsPure :
    ready.ksv = true ∧ (16 = 16 ∨ 16 = 24 ∨ 16 = 32) ∧
    (∃ t, exec (.decryptBlock 16) ready = .next t ∧ t.ksv = true) ∧
    ∃ t, exec (.expand 16) ready = .next t ∧ t.ksv = true :=
  ⟨by decide +kernel, .inl rfl, exists_next (p := fun t => t.ksv) (by decide +kernel),
    exists_next (p := fun t => t.ksv) (by decide +kernel)⟩
theorem wit_InvCipherEqualsTheUnfusedReference : ∀ nr ∈ [1, 10, 12, 14], 1 ≤ nr := by decide
theorem wit_SboxIsTheAffineImageOfTheInverse : (0x01 : Byte) ≠ 0x00 ∧ 7 < 8 ∧ sbox 0x53 = sbox 0x53 := by decide
/-- Every clause's range at its edges: the first and last word index with and without RCon, the first and
last index of RCon. -/
theorem wit_RconHoldsThePowersOfX :
    (1 ≤ 1 ∧ 1 < 10 ∧ 1 ≤ 9 ∧ 9 < 10) ∧
    (∀ p ∈ [(4, 10), (6, 8), (8, 7)], (p.1 = 4 ∧ p.2 = 10) ∨ (p.1 = 6 ∧ p.2 = 8) ∨ (p.1 = 8 ∧ p.2 = 7)) ∧
    (∀ p ∈ [(4, 4), (4, 40), (6, 6), (6, 48), (8, 8), (8, 56)],
      p.1 ≤ p.2 ∧ p.2 < 4 * (p.1 + 6 + 1) ∧ p.2 % p.1 = 0) ∧
    (∀ p ∈ [(4, 5), (4, 43), (6, 10), (6, 51), (8, 12), (8, 59)],
      p.1 ≤ p.2 ∧ p.2 < 4 * (p.1 + 6 + 1) ∧ p.2 % p.1 ≠ 0) ∧
    (∀ p ∈ [(1, 10), (10, 10), (1, 8), (8, 8), (1, 7), (7, 7)], 1 ≤ p.1 ∧ p.1 ≤ p.2) := by decide
theorem wit_ExpansionSatisfiesTheRecurrence :
    kat128.length = 16 ∧ kat256.length = 32 ∧ (hex 24 0).length = 24 := by decide +kernel
theorem wit_AddressDecodesItsLow16Bits : 0x40000000 % 0x10000 = 0 ∧ 0 % 0x10000 = 0 := by decide
theorem wit_OnlyAlignedWordAccessesAreAccepted :
    (∀ p ∈ [(0x020, 1), (0x022, 4), (0x020, 8)], p.2 ≠ 4 ∨ p.1 % 4 ≠ 0) ∧
    (∀ off ∈ [0x010, 0x01C, 0x050, 0x0FC, 0x1F0, 0xFFC, 0x2000, 0xFFFC],
      off % 4 = 0 ∧ ReservedOffset State.reset.cfg (off % 0x10000)) ∧
    (∀ a : HostAccess, (asked a State.reset).HostNext a) := by
  refine ⟨by decide, ?_, fun _ => ⟨rfl, rfl⟩⟩
  unfold ReservedOffset; decide
theorem wit_StatusWriteClearsTheWrittenBits :
    (asked (.wr 0x004 4 0xE) State.reset).HostNext (.wr 0x004 4 0xE) ∧ 0x004 % 0x10000 = 0x004 ∧
    (busyAsked 0 (.wr 0x004 4 0xE) State.reset).HostNext (.wr 0x004 4 0xE) :=
  ⟨⟨rfl, rfl⟩, rfl, ⟨rfl, rfl⟩⟩
theorem wit_CommandWriteIsAccepted :
    (asked (.wr 0x000 4 0x00000004) State.reset).HostNext (.wr 0x000 4 0x00000004) ∧
    0x000 % 0x10000 = 0x000 ∧ (asked (.wr 0x000 4 0x00000004) State.reset).busy = false :=
  ⟨⟨rfl, rfl⟩, rfl, rfl⟩
theorem wit_WritesWhileBusyAreDropped :
    (∀ off ∈ [0x000, 0x008, 0x00C, 0x020, 0x03C, 0x040, 0x04C, 0x1000, 0x1FFC],
      off % 4 = 0 ∧ WritableOffset State.reset.cfg (off % 0x10000)) ∧
    ∀ off, (busyAsked 0x00001002 (.wr off 4 1) State.reset).HostNext (.wr off 4 1) ∧
      (busyAsked 0x00001002 (.wr off 4 1) State.reset).busy = true := by
  refine ⟨?_, fun _ => ⟨⟨rfl, rfl⟩, rfl⟩⟩
  unfold WritableOffset; decide
theorem wit_ReadOnlyAndReservedWritesAreIgnored :
    (∀ off ∈ [0x100, 0x1EC, 0x010, 0x0FC, 0x1F0, 0x2000, 0xFFFC], off % 4 = 0 ∧
      ((0x100 ≤ off % 0x10000 ∧ off % 0x10000 < 0x1F0) ∨ ReservedOffset State.reset.cfg (off % 0x10000))) ∧
    ∀ off, (asked (.wr off 4 1) State.reset).HostNext (.wr off 4 1) := by
  refine ⟨?_, fun _ => ⟨rfl, rfl⟩⟩
  unfold ReservedOffset; decide
theorem wit_IdleDataWriteStoresFourBytes :
    (∀ off, (asked (.wr off 4 1) State.reset).HostNext (.wr off 4 1)) ∧ State.reset.busy = false ∧
    0x03C % 0x10000 = 0x020 + 4 * 7 ∧ 0x04C % 0x10000 = 0x040 + 4 * 3 ∧
    4 * 1023 < State.reset.cfg.bufSize ∧ 0x1FFC % 0x10000 = 0x1000 + 4 * 1023 :=
  ⟨fun _ => ⟨rfl, rfl⟩, rfl, rfl, rfl, by decide, rfl⟩
/-- The edges of each array, and a DBUF word with a written byte. -/
theorem wit_HostReadReturnsTheRegister :
    (∀ off, (asked (.rd off 4) ready).HostNext (.rd off 4)) ∧
    (∀ off, ¬ (asked (.rd off 4) ready).InFlightAt off) ∧
    0x03C = 0x020 + 4 * 7 ∧ 0x04C = 0x040 + 4 * 3 ∧ 0x1EC = 0x100 + 4 * 59 ∧
    16 * (ready.nr.toNat + 1) ≤ 4 * 44 ∧ 4 * 43 < 16 * (ready.nr.toNat + 1) ∧
    Memory.read (buffered 0 0 4095 [7] ready).dbuf (4 * 1023 + 3) = some 7 ∧
    ReservedOffset ready.cfg 0xFFFC := by
  refine ⟨fun _ => ⟨rfl, ready_flags.1⟩, ?_, rfl, rfl, rfl, by decide +kernel, by decide +kernel,
    by decide +kernel, ?_⟩
  · intro off h
    exact absurd (ready_flags.2.symm.trans h.1) (by decide)
  · unfold ReservedOffset; decide +kernel
/-- One in-flight read per OP, at the edges. -/
theorem wit_InFlightReadsAreDraws :
    (∀ v a, (busyAsked v (.rd a 4) (buffered 3 16 0 [] ready)).HostNext (.rd a 4)) ∧
    (∀ off ∈ [0x040, 0x04C],
      (busyAsked 0x00000002 (.rd off 4) (buffered 3 16 0 [] ready)).InFlightAt (off % 0x10000)) ∧
    (∀ off ∈ [0x100, 0x1EC],
      (busyAsked 0x00001001 (.rd off 4) (buffered 3 16 0 [] ready)).InFlightAt (off % 0x10000)) ∧
    (∀ off ∈ [0x1000, 0x1010],
      (busyAsked 0x00000003 (.rd off 4) (buffered 3 16 0 [] ready)).InFlightAt (off % 0x10000)) := by
  refine ⟨fun _ _ => ⟨rfl, ready_flags.1⟩, ?_, ?_, ?_⟩
  · intro off h
    exact ⟨rfl, _, rfl, .inl ⟨by decide, by revert off; decide, by revert off; decide⟩⟩
  · intro off h
    exact ⟨rfl, _, rfl, .inr (.inl ⟨by decide, by revert off; decide, by revert off; decide⟩)⟩
  · intro off h
    exact ⟨rfl, _, rfl, .inr (.inr ⟨by decide, by revert off; decide, by revert off; decide +kernel,
      by revert off; decide +kernel⟩)⟩
theorem wit_WriteThenReadBack :
    State.reset.resetAsserted = false ∧ State.reset.busy = false ∧ State.reset.cfg.Legal ∧
    ∀ off ∈ [0x008, 0x00C, 0x020, 0x03C, 0x040, 0x04C, 0x1000, 0x1FFC],
      off % 4 = 0 ∧ off ≠ 0 ∧ WritableOffset State.reset.cfg off := by
  refine ⟨rfl, rfl, by decide, ?_⟩
  unfold WritableOffset; decide
theorem wit_FirstStatusReadSeesBusyOrDone :
    let s := { State.reset with events := [.host (.wr 0x000 4 0x00001001), .engine, .host (.rd 0x004 4)] }
    s.events = .host (.wr 0x000 4 0x00001001) :: .engine :: .host (.rd 0x004 4) :: [] ∧
    s.resetAsserted = false ∧ s.busy = false := ⟨rfl, rfl, rfl⟩
theorem wit_ScheduleChangesOnlyByExpandOrReset :
    ∃ t, step (latched 0x00001001 State.reset) = .next t ∧ decide (t.ksv ≠ State.reset.ksv) = true :=
  exists_next (by decide +kernel)
/-- Every clause's change, at the edges of the arrays: the last byte of KEY, of BLK and of DBUF by a host
write, BUF_OFF and BUF_LEN, BLK by DECRYPT_BLOCK, and the last byte of DBUF (UNWRITTEN before) by
DECRYPT_BUF. No one of them is a reset. -/
theorem wit_OperandsChangeOnlyByTheirWriters :
    (∃ t, step (asked (.wr 0x03C 4 0xFF000000) State.reset) = .next t ∧
      decide (byteAt t.key 31 ≠ byteAt State.reset.key 31) = true) ∧
    (∃ t, step (asked (.wr 0x008 4 1) State.reset) = .next t ∧ decide (t.bufOff ≠ State.reset.bufOff) = true) ∧
    (∃ t, step (asked (.wr 0x00C 4 1) State.reset) = .next t ∧ decide (t.bufLen ≠ State.reset.bufLen) = true) ∧
    (∃ t, step (asked (.wr 0x04C 4 0xFF000000) State.reset) = .next t ∧
      decide (byteAt t.blk 15 ≠ byteAt State.reset.blk 15) = true) ∧
    (∃ t, step (latched 0x00001002 { ready with blk := ct128 }) = .next t ∧
      decide (statusWord t = 0x0004A102 ∧ t.blk = pt) = true) ∧ byteAt pt 0 ≠ byteAt ct128 0 ∧
    (∃ t, step (asked (.wr 0x1FFC 4 0) State.reset) = .next t ∧
      decide (Memory.read t.dbuf 4095 ≠ Memory.read State.reset.dbuf 4095) = true) ∧
    (∃ t, step (latched 0x00000003 (buffered 4080 16 0 [] ready)) = .next t ∧
      (Memory.read t.dbuf 4095).isSome = true) ∧
    Memory.read (buffered 4080 16 0 [] ready).dbuf 4095 = none ∧
    (∀ a, (asked a State.reset).events.head? ≠ some .resetRelease) ∧
    ∀ v s, (latched v s).events.head? ≠ some .resetRelease :=
  ⟨exists_next (by decide +kernel), exists_next (by decide +kernel), exists_next (by decide +kernel),
    exists_next (by decide +kernel), exists_next test_decryptBlock_128, by decide +kernel,
    exists_next (by decide +kernel),
    exists_next (p := fun t => (Memory.read t.dbuf 4095).isSome) (by decide +kernel), rfl,
    fun _ => by simp, fun _ _ => by simp [latchCommand]⟩
theorem wit_CompletionFieldsChangeOnlyAtCompletionOrReset :
    ∃ t, step (latched 0x00000000 State.reset) = .next t ∧
      decide ((latched 0x00000000 State.reset).busy = true ∧ t.busy = false) = true :=
  exists_next (by decide +kernel)
/-- Each of the four clauses. -/
theorem wit_ErrAndOvrAreSticky :
    (∃ t, step (asked (.wr 0x004 4 0x4) { State.reset with err := true }) = .next t ∧
      decide (t.err = false) = true) ∧
    (∃ t, step (asked (.wr 0x004 4 0x8) { State.reset with ovr := true }) = .next t ∧
      decide (t.ovr = false) = true) ∧
    (∃ t, step (latched 0x00000004 State.reset) = .next t ∧ t.err = true) ∧
    (∃ t, step (busyAsked 0 (.wr 0x000 4 0) State.reset) = .next t ∧ t.ovr = true) :=
  ⟨exists_next (by decide +kernel), exists_next (by decide +kernel),
    exists_next (p := fun t => t.err) (by decide +kernel), exists_next (p := fun t => t.ovr) (by decide +kernel)⟩
/-- BUSY rises and falls; DONE rises, and falls by each of its three causes. -/
theorem wit_BusyAndDoneChangeOnlyByTheirCauses :
    (∃ t, step (asked (.wr 0x000 4 1) State.reset) = .next t ∧ t.busy = true) ∧
    (∃ t, step (latched 0x00000000 State.reset) = .next t ∧ decide (t.busy = false ∧ t.done = true) = true) ∧
    (latched 0x00000000 State.reset).busy = true ∧ (latched 0x00000000 State.reset).done = false ∧
    (∃ t, step (asked (.wr 0x000 4 1) { State.reset with done := true }) = .next t ∧
      decide (t.done = false) = true) ∧
    (∃ t, step (asked (.wr 0x004 4 2) { State.reset with done := true }) = .next t ∧
      decide (t.done = false) = true) ∧
    ∃ t, step { State.reset with done := true, resetAsserted := true, events := [.resetRelease] } = .next t ∧
      decide (t.done = false) = true :=
  ⟨exists_next (p := fun t => t.busy) (by decide +kernel), exists_next (by decide +kernel), rfl, rfl,
    exists_next (by decide +kernel), exists_next (by decide +kernel), exists_next (by decide +kernel)⟩
/-- RK byte 239 lies beyond an AES-128 schedule: the two states differ there only. -/
theorem wit_UncoveredRoundKeyBytesAreUnobservable :
    let s := asked (.rd 0x100 4) { State.reset with ksv := true, nk := 4, nr := 10 }
    let rk := Vector.ofFn fun k : Fin 240 => if k.val < 176 then 0x00 else 0xFF
    (∀ k < 16 * (s.nr.toNat + 1), byteAt rk k = byteAt s.rk k) ∧ byteAt rk 239 ≠ byteAt s.rk 239 ∧
    ∃ t, step s = .next t ∧ true = true := by
  refine ⟨fun k (hk : k < 176) => ?_, by decide +kernel, exists_next (p := fun _ => true) (by decide +kernel)⟩
  rw [byteAt_eq _ (by omega), byteAt_eq _ (by omega)]
  simp [State.reset, State.resetWith, hk]
theorem wit_ResetGivesEveryItemItsValue :
    let s := { ready with events := [.host (.rd 0 4)], resetAsserted := true }
    let u := { ready with events := [.resetRelease], resetAsserted := true }
    s.events.head? = some (.host (.rd 0 4)) ∧ s.resetAsserted = true ∧
    u.events.head? = some .resetRelease ∧ u.resetAsserted = true := ⟨rfl, rfl, rfl, rfl⟩
theorem wit_StepKeepsGoodStates :
    ready.Good ∧ ∃ t, step ready = .next t ∧ t.ksv = true :=
  ⟨test_ready_good, exists_next (p := fun t => t.ksv) (by decide +kernel)⟩
theorem wit_GoodStatesNeverStop : (latched 0x00001001 State.reset).Good := test_latched_good
theorem wit_AcceptedCommandsComplete :
    let s := latched 0x00001001 State.reset
    s.Good ∧ s.busy = true ∧ s.resetAsserted = false ∧
    ∀ e ∈ s.events, e ≠ .resetAssert ∧ e ≠ .resetRelease :=
  ⟨test_latched_good, rfl, rfl, by decide⟩
theorem wit_InstancesDoNotInteract :
    ∃ q, Platform.stepAt [State.reset, State.reset] 1 = .next q := ⟨_, rfl⟩

end Sys2Proof.Tests
end

section
/-! Host accesses (10_state.md): the STATUS write (R28). -/

namespace Sys2Proof.Machine

/-- The STATUS write as R28 puts it: a written 1 clears the flag, a written 0 keeps it. -/
theorem writeStatus_eq_ite (v : Word) (s : State) :
    writeStatus v s = { s with
      done := if v.getLsbD 1 then false else s.done
      err := if v.getLsbD 2 then false else s.err
      ovr := if v.getLsbD 3 then false else s.ovr } := by
  have keep_unless (flag bit : Bool) : (flag && !bit) = if bit then false else flag := by
    cases bit <;> simp
  simp only [writeStatus, keep_unless]

/-- A write to the STATUS register is R28's clearing whatever BUSY is (R181). -/
theorem writeReg_status (v : Word) (s : State) :
    writeReg v .status s = { writeStatus v s with resp := .ack } := by
  rw [writeReg, writeEffect, if_pos rfl]

/-- Settles O39: the access goes to the STATUS register, whose write looks at neither BUSY nor the other
fields, and clears the three flags as R28 says. -/
theorem statusWriteClearsTheWrittenBits : Obligations.StatusWriteClearsTheWrittenBits := by
  unfold Obligations.StatusWriteClearsTheWrittenBits
  intro s addr v hnext hoff
  have hreg : regAt s.cfg (addr % 0x10000) = .status := (regAt_status_iff _ _).2 hoff
  have hstep : step s = .next (writeReg v .status s.afterEvent) :=
    hreg ▸ step_write hnext (by omega)
  refine ⟨.ack, ?_⟩
  rw [hstep, writeReg_status, writeStatus_eq_ite]

end Sys2Proof.Machine
end

section
/-! The command word (30_encoding.md): its fields under a mask, and which words R82's table selects. -/

namespace Sys2Proof.Machine

/-! The fields of a masked word and of a packed one (R80). -/

@[simp] theorem opField_and (w m : Word) : opField (w &&& m) = opField w &&& opField m :=
  BitVec.extractLsb'_and

@[simp] theorem rsv0Field_and (w m : Word) : rsv0Field (w &&& m) = rsv0Field w &&& rsv0Field m :=
  BitVec.extractLsb'_and

@[simp] theorem lenField_and (w m : Word) : lenField (w &&& m) = lenField w &&& lenField m :=
  BitVec.extractLsb'_and

@[simp] theorem rsv1Field_and (w m : Word) : rsv1Field (w &&& m) = rsv1Field w &&& rsv1Field m :=
  BitVec.extractLsb'_and

@[simp] theorem opField_packCmd (len : Nat) (op : BitVec 4) : opField (packCmd len op) = op :=
  BitVec.extractLsb'_append_eq_right

@[simp] theorem rsv0Field_packCmd (len : Nat) (op : BitVec 4) : rsv0Field (packCmd len op) = 0 :=
  (BitVec.extractLsb'_append_eq_of_le (by decide)).trans BitVec.extractLsb'_append_eq_right

@[simp] theorem lenField_packCmd (len : Nat) (op : BitVec 4) :
    lenField (packCmd len op) = BitVec.ofNat 8 len :=
  (BitVec.extractLsb'_append_eq_of_le (by decide)).trans <|
    (BitVec.extractLsb'_append_eq_of_le (by decide)).trans BitVec.extractLsb'_append_eq_right

@[simp] theorem rsv1Field_packCmd (len : Nat) (op : BitVec 4) : rsv1Field (packCmd len op) = 0 :=
  (BitVec.extractLsb'_append_eq_of_le (by decide)).trans <|
    (BitVec.extractLsb'_append_eq_of_le (by decide)).trans <|
    (BitVec.extractLsb'_append_eq_of_le (by decide)).trans BitVec.extractLsb'_eq_self

/-- LEN is the byte of the word's bits 15:8 (R80). -/
theorem lenField_toNat (w : Word) : (lenField w).toNat = w.toNat / 256 % 256 := by
  simp [lenField, BitVec.extractLsb'_toNat, Nat.shiftRight_eq_div_pow]

/-- Two words are equal exactly when their four fields are (R80). -/
theorem word_eq_iff_fields (w w' : Word) :
    w = w' ↔ rsv1Field w = rsv1Field w' ∧ rsv0Field w = rsv0Field w' ∧
      opField w = opField w' ∧ lenField w = lenField w' := by
  constructor
  · rintro rfl
    exact ⟨rfl, rfl, rfl, rfl⟩
  · rintro ⟨hrsv1, hrsv0, hop, hlen⟩
    rw [word_fields w, word_fields w', hrsv1, hrsv0, hop, hlen]

/-! R82's two masks. -/

/-- The mask of the commands without LEN compares every field. -/
theorem and_fullMask_eq_packCmd_iff (w : Word) (op : BitVec 4) :
    w &&& 0xFFFFFFFF = packCmd 0 op ↔
      rsv1Field w = 0 ∧ rsv0Field w = 0 ∧ opField w = op ∧ lenField w = 0 := by
  rw [show w &&& 0xFFFFFFFF = w from BitVec.and_allOnes]
  simp only [word_eq_iff_fields, rsv1Field_packCmd, rsv0Field_packCmd, opField_packCmd,
    lenField_packCmd, BitVec.ofNat_eq_ofNat]

/-- The mask of the commands with LEN compares every field but LEN. -/
theorem and_lenMask_eq_packCmd_iff (w : Word) (op : BitVec 4) :
    w &&& 0xFFFF00FF = packCmd 0 op ↔ rsv1Field w = 0 ∧ rsv0Field w = 0 ∧ opField w = op := by
  have hrsv1 : rsv1Field 0xFFFF00FF = BitVec.allOnes 16 := by decide
  have hrsv0 : rsv0Field 0xFFFF00FF = BitVec.allOnes 4 := by decide
  have hop : opField 0xFFFF00FF = BitVec.allOnes 4 := by decide
  have hlen : lenField 0xFFFF00FF = 0#8 := by decide
  simp only [word_eq_iff_fields, rsv1Field_and, rsv0Field_and, opField_and, lenField_and, hrsv1, hrsv0,
    hop, hlen, BitVec.and_allOnes, BitVec.and_zero, rsv1Field_packCmd, rsv0Field_packCmd,
    opField_packCmd, lenField_packCmd, and_true]

/-! The commands and the rows. -/

/-- `decode_cases` both ways: every word it lists is legal (R82, R84). -/
theorem decode_eq_ok_iff (w : Word) (i : Instr) : decode w = .ok i ↔
    rsv1Field w = 0 ∧ rsv0Field w = 0 ∧
      ((opField w = 0 ∧ lenField w = 0 ∧ i = .nop) ∨
       (opField w = 1 ∧ i = .expand (lenField w).toNat) ∨
       (opField w = 2 ∧ i = .decryptBlock (lenField w).toNat) ∨
       (opField w = 3 ∧ lenField w = 0 ∧ i = .decryptBuf)) := by
  refine ⟨decode_cases, ?_⟩
  rintro ⟨hrsv1, hrsv0, ⟨hop, hlen, rfl⟩ | ⟨hop, rfl⟩ | ⟨hop, rfl⟩ | ⟨hop, hlen, rfl⟩⟩
  · simp [decode, withoutLen, hrsv1, hrsv0, hop, hlen]
  · simp [decode, hrsv1, hrsv0, hop]
  · simp [decode, hrsv1, hrsv0, hop]
  · simp [decode, withoutLen, hrsv1, hrsv0, hop, hlen]

/-- The decoder reads R82's table: a word is a command's when it matches that command's row. -/
theorem decode_eq_ok_iff_matches (w : Word) (i : Instr) : decode w = .ok i ↔
    (w &&& 0xFFFFFFFF = packCmd 0 0 ∧ i = .nop) ∨
    (w &&& 0xFFFF00FF = packCmd 0 1 ∧ i = .expand (lenField w).toNat) ∨
    (w &&& 0xFFFF00FF = packCmd 0 2 ∧ i = .decryptBlock (lenField w).toNat) ∨
    (w &&& 0xFFFFFFFF = packCmd 0 3 ∧ i = .decryptBuf) := by
  simp only [decode_eq_ok_iff, and_fullMask_eq_packCmd_iff, and_lenMask_eq_packCmd_iff, and_or_left,
    and_assoc]

/-- Every mask of R82's table keeps the whole OP field. -/
theorem opField_of_matchesWord {r : OpcodeRow} (hr : r ∈ opcodeTable) {w : Word}
    (h : r.matchesWord w = true) : opField w = opField r.matchWord := by
  have hmask : ∀ r ∈ opcodeTable, opField r.mask = BitVec.allOnes 4 := by decide
  have hw : w &&& r.mask = r.matchWord := of_decide_eq_true h
  rw [← hw, opField_and, hmask r hr, BitVec.and_allOnes]

/-- No two rows of R82's table have the same OP. -/
theorem opcodeRow_eq_of_opField_eq : ∀ r ∈ opcodeTable, ∀ r' ∈ opcodeTable,
    opField r.matchWord = opField r'.matchWord → r = r' := by decide

/-- At most one row of R82's table matches a word: a matching row has the word's OP. -/
theorem opcodeRow_eq_of_matchesWord {r r' : OpcodeRow} (hr : r ∈ opcodeTable) (hr' : r' ∈ opcodeTable)
    {w : Word} (h : r.matchesWord w = true) (h' : r'.matchesWord w = true) : r = r' :=
  opcodeRow_eq_of_opField_eq r hr r' hr'
    ((opField_of_matchesWord hr h).symm.trans (opField_of_matchesWord hr' h'))

/-- Settles O4: R82's masks compare the fields that R188's decoder checks, and the rows differ in OP,
which every mask keeps. -/
theorem opcodeTableSelectsTheCommand : Obligations.OpcodeTableSelectsTheCommand := by
  unfold Obligations.OpcodeTableSelectsTheCommand
  refine ⟨fun w i => ?_, fun w r hr r' hr' => opcodeRow_eq_of_matchesWord hr hr'⟩
  rw [← lenField_toNat]
  -- the rows' match words are literals, equal to `packCmd 0 op` by evaluation
  exact decode_eq_ok_iff_matches w i

end Sys2Proof.Machine
end

section
/-! The GF(2^8) engine (40_tables_gf.md, R103): `gmul` is linear in each factor, and `xtime` may be taken
out of either. Every byte is built from 0 and 1 by `xtime` and XOR, so a law that these keep holds. -/

namespace Sys2Proof.Machine

/-! A byte taken when a bit is set. -/

/-- XOR of the deciding bits. -/
theorem ite_xor_bits (s t : Bool) (p : Byte) : (if s ^^ t then p else 0x00) =
    (if s then p else 0x00) ^^^ (if t then p else 0x00) := by
  cases s <;> cases t <;> simp

/-- XOR of the bytes. -/
theorem ite_xor_bytes (s : Bool) (p p' : Byte) : (if s then p ^^^ p' else 0x00) =
    (if s then p else 0x00) ^^^ (if s then p' else 0x00) := by
  cases s <;> simp

/-! Doubling. -/

theorem xtime_eq_ite (b : Byte) :
    xtime b = if b.getLsbD 7 then (b <<< 1) ^^^ 0x1B else b <<< 1 := by
  unfold xtime
  split
  · rfl
  · exact BitVec.xor_zero

@[simp] theorem xtime_zero : xtime 0#8 = 0#8 := by decide

theorem xtime_xor (a b : Byte) : xtime (a ^^^ b) = xtime a ^^^ xtime b := by
  simp only [xtime, BitVec.shiftLeft_xor_distrib, BitVec.getLsbD_xor, ite_xor_bits]
  ac_rfl

/-! The loop. -/

theorem gmulFrom_succ (b : Byte) (n i : Nat) (r p : Byte) : gmulFrom b (n + 1) i r p =
    gmulFrom b n (i + 1) (r ^^^ if b.getLsbD i then p else 0x00) (xtime p) := by
  rw [gmulFrom]
  split
  · rfl
  · exact congrArg (gmulFrom b n (i + 1) · (xtime p)) BitVec.xor_zero.symm

/-- The loop in the order of R103: step `i` adds `a` doubled `i` times. -/
theorem gmulFrom_eq_foldl (a b : Byte) (n i : Nat) (r : Byte) :
    gmulFrom b n i r (xtime^[i] a) =
      (List.range' i n).foldl (fun r i => if b.getLsbD i then r ^^^ xtime^[i] a else r) r := by
  induction n generalizing i r with
  | zero => rfl
  | succ n ih =>
    rw [gmulFrom, ← Function.iterate_succ_apply' xtime, ih, List.range'_succ, List.foldl_cons]

theorem gmulFrom_xor_left (b : Byte) (n i : Nat) (r r' p p' : Byte) :
    gmulFrom b n i (r ^^^ r') (p ^^^ p') = gmulFrom b n i r p ^^^ gmulFrom b n i r' p' := by
  induction n generalizing i r r' p p' with
  | zero => rfl
  | succ n ih =>
    rw [gmulFrom_succ, gmulFrom_succ, gmulFrom_succ, ← ih, xtime_xor, ite_xor_bytes]
    ac_rfl

theorem gmulFrom_xor_right (b c : Byte) (n i : Nat) (r r' p : Byte) :
    gmulFrom (b ^^^ c) n i (r ^^^ r') p = gmulFrom b n i r p ^^^ gmulFrom c n i r' p := by
  induction n generalizing i r r' p with
  | zero => rfl
  | succ n ih =>
    rw [gmulFrom_succ, gmulFrom_succ, gmulFrom_succ, ← ih, BitVec.getLsbD_xor, ite_xor_bits]
    ac_rfl

theorem gmulFrom_xtime_left (b : Byte) (n i : Nat) (r p : Byte) :
    gmulFrom b n i (xtime r) (xtime p) = xtime (gmulFrom b n i r p) := by
  induction n generalizing i r p with
  | zero => rfl
  | succ n ih =>
    rw [gmulFrom, gmulFrom, ← ih, ← xtime_xor, ← apply_ite xtime]

/-- What XOR and doubling keep, the loop keeps. -/
theorem gmulFrom_induction {P : Byte → Prop} (hxor : ∀ x y, P x → P y → P (x ^^^ y))
    (hxtime : ∀ x, P x → P (xtime x)) (b : Byte) (n i : Nat) {r p : Byte} (hr : P r) (hp : P p) :
    P (gmulFrom b n i r p) := by
  induction n generalizing i r p with
  | zero => exact hr
  | succ n ih =>
    refine ih _ ?_ (hxtime p hp)
    split
    · exact hxor r p hr hp
    · exact hr

/-! The product. -/

theorem gmul_eq_foldl (a b : Byte) : gmul a b =
    (List.range 8).foldl (fun r i => if b.getLsbD i then r ^^^ xtime^[i] a else r) 0x00 := by
  rw [List.range_eq_range']
  exact gmulFrom_eq_foldl a b 8 0 0x00

theorem gmul_xor_left (a b c : Byte) : gmul (a ^^^ b) c = gmul a c ^^^ gmul b c :=
  gmulFrom_xor_left c 8 0 0x00 0x00 a b

theorem gmul_xor_right (a b c : Byte) : gmul a (b ^^^ c) = gmul a b ^^^ gmul a c :=
  gmulFrom_xor_right b c 8 0 0x00 0x00 a

@[simp] theorem gmul_xtime_left (a b : Byte) : gmul (xtime a) b = xtime (gmul a b) :=
  gmulFrom_xtime_left b 8 0 0x00 a

@[simp] theorem gmul_zero_left (b : Byte) : gmul 0#8 b = 0#8 := by
  simpa using gmul_xor_left 0#8 0#8 b

@[simp] theorem gmul_zero_right (a : Byte) : gmul a 0#8 = 0#8 := by
  simpa using gmul_xor_right a 0#8 0#8

@[simp] theorem gmul_one_left : ∀ b : Byte, gmul 1#8 b = b := by decide +kernel

@[simp] theorem gmul_one_right (a : Byte) : gmul a 1#8 = a :=
  BitVec.zero_xor

/-- Every byte is a sum of doublings of 1: the loop of `gmul 1#8 b` builds it. -/
theorem byte_induction {P : Byte → Prop} (hzero : P 0#8) (hone : P 1#8)
    (hxtime : ∀ x, P x → P (xtime x)) (hxor : ∀ x y, P x → P y → P (x ^^^ y)) (b : Byte) : P b :=
  gmul_one_left b ▸ gmulFrom_induction hxor hxtime b 8 0 hzero hone

@[simp] theorem gmul_xtime_right (a b : Byte) : gmul a (xtime b) = xtime (gmul a b) := by
  induction a using byte_induction with
  | hzero => simp
  | hone => simp
  | hxtime a ih => simp [ih]
  | hxor a a' ih ih' => simp only [gmul_xor_left, ih, ih', xtime_xor]

theorem gmul_comm (a b : Byte) : gmul a b = gmul b a := by
  induction b using byte_induction with
  | hzero => simp
  | hone => simp
  | hxtime b ih => simp [ih]
  | hxor b b' ih ih' => simp only [gmul_xor_left, gmul_xor_right, ih, ih']

theorem gmul_assoc (a b c : Byte) : gmul (gmul a b) c = gmul a (gmul b c) := by
  induction b using byte_induction with
  | hzero => simp
  | hone => simp
  | hxtime b ih => simp [ih]
  | hxor b b' ih ih' => simp only [gmul_xor_left, gmul_xor_right, ih, ih']

/-- A byte has at most one inverse, as in every commutative monoid. -/
theorem gmul_inverse_unique {x y z : Byte} (hy : gmul x y = 1#8) (hz : gmul x z = 1#8) : z = y :=
  calc z = gmul z (gmul x y) := by rw [hy, gmul_one_right]
    _ = gmul (gmul x z) y := by rw [← gmul_assoc, gmul_comm z x]
    _ = y := by rw [hz, gmul_one_left]

/-- Settles O31: the loop is R103's fold, linear in both factors, and the laws follow by building a byte
from 0 and 1. -/
theorem gmulIsFieldMultiplication : Obligations.GmulIsFieldMultiplication := by
  unfold Obligations.GmulIsFieldMultiplication
  exact ⟨xtime_eq_ite, gmul_eq_foldl, gmul_comm, gmul_xor_right, gmul_xor_left,
    fun a => ⟨gmul_one_right a, gmul_zero_right a⟩, by decide, by decide, by decide, by decide⟩

end Sys2Proof.Machine
end

section
/-! The printed tables (40_tables_gf.md, R104, R106 to R108) against the arithmetic that defines them. -/

namespace Sys2Proof.Machine

/-! The multiplication tables (R104). -/

/-- The printed tables are the rule's sums of doublings. -/
theorem mulTables_eq_xtime_sums : ∀ x : Byte,
    mul9 x = xtime (xtime (xtime x)) ^^^ x ∧
    mulB x = xtime (xtime (xtime x)) ^^^ xtime x ^^^ x ∧
    mulD x = xtime (xtime (xtime x)) ^^^ xtime (xtime x) ^^^ x ∧
    mulE x = xtime (xtime (xtime x)) ^^^ xtime (xtime x) ^^^ xtime x := by decide +kernel

/-- The four constants as sums of doublings of 1. -/
theorem mulConstants_eq_xtime_sums :
    (0x09 : Byte) = xtime (xtime (xtime 1#8)) ^^^ 1#8 ∧
    (0x0B : Byte) = xtime (xtime (xtime 1#8)) ^^^ xtime 1#8 ^^^ 1#8 ∧
    (0x0D : Byte) = xtime (xtime (xtime 1#8)) ^^^ xtime (xtime 1#8) ^^^ 1#8 ∧
    (0x0E : Byte) = xtime (xtime (xtime 1#8)) ^^^ xtime (xtime 1#8) ^^^ xtime 1#8 := by decide

/-- A product by a constant is the sum of doublings of `x` that the constant is of 1. -/
theorem gmul_mulConstants (x : Byte) :
    gmul 0x09 x = xtime (xtime (xtime x)) ^^^ x ∧
    gmul 0x0B x = xtime (xtime (xtime x)) ^^^ xtime x ^^^ x ∧
    gmul 0x0D x = xtime (xtime (xtime x)) ^^^ xtime (xtime x) ^^^ x ∧
    gmul 0x0E x = xtime (xtime (xtime x)) ^^^ xtime (xtime x) ^^^ xtime x := by
  obtain ⟨h9, hB, hD, hE⟩ := mulConstants_eq_xtime_sums
  rw [h9, hB, hD, hE]
  simp only [gmul_xor_left, gmul_xtime_left, gmul_one_left, and_self]

/-- Settles O32: both the printed entry and the product by the constant are the rule's sum of doublings. -/
theorem mulTablesAreFieldMultiplication : Obligations.MulTablesAreFieldMultiplication := by
  unfold Obligations.MulTablesAreFieldMultiplication
  intro x
  obtain ⟨t9, tB, tD, tE⟩ := mulTables_eq_xtime_sums x
  obtain ⟨g9, gB, gD, gE⟩ := gmul_mulConstants x
  exact ⟨t9.trans g9.symm, tB.trans gB.symm, tD.trans gD.symm, tE.trans gE.symm, t9, tB, tD, tE⟩

/-! The S-boxes (R106, R107). -/

theorem invSbox_sbox : ∀ x : Byte, invSbox (sbox x) = x := by decide +kernel

theorem sbox_invSbox : ∀ x : Byte, sbox (invSbox x) = x := by decide +kernel

/-- Settles O34: the two printed tables undo each other at every byte. -/
theorem invSboxInvertsSbox : Obligations.InvSboxInvertsSbox := by
  unfold Obligations.InvSboxInvertsSbox
  exact ⟨fun x => ⟨invSbox_sbox x, sbox_invSbox x⟩, by decide, by decide, by decide⟩

theorem sbox_injective : Function.Injective sbox :=
  Function.LeftInverse.injective invSbox_sbox

/-- A rotation to the right by `k` moves bit `i + k`, mod 8, to bit `i` (R106). -/
theorem getLsbD_rotateRight_byte (b : Byte) {i k : Nat} (hi : i < 8) (hk : k < 8) :
    (b.rotateRight k).getLsbD i = b.getLsbD ((i + k) % 8) := by
  have hshift : (i + k) % 8 = if i < 8 - k then k + i else i - (8 - k) := by split <;> omega
  rw [BitVec.getLsbD_rotateRight_of_lt hk, hshift]
  split <;> simp [*]

/-- R106's affine map, bit by bit. -/
theorem getLsbD_sboxAffine (b : Byte) {i : Nat} (hi : i < 8) : (sboxAffine b).getLsbD i =
    (b.getLsbD i ^^ b.getLsbD ((i + 4) % 8) ^^ b.getLsbD ((i + 5) % 8) ^^ b.getLsbD ((i + 6) % 8) ^^
      b.getLsbD ((i + 7) % 8) ^^ (0x63 : Byte).getLsbD i) := by
  simp only [sboxAffine, BitVec.getLsbD_xor, getLsbD_rotateRight_byte b hi (show 4 < 8 by decide),
    getLsbD_rotateRight_byte b hi (show 5 < 8 by decide),
    getLsbD_rotateRight_byte b hi (show 6 < 8 by decide),
    getLsbD_rotateRight_byte b hi (show 7 < 8 by decide)]

/-- The affine map undone: bit `i` is `b[i+2] ^ b[i+5] ^ b[i+7] ^ d[i]`, indices mod 8, with `d = 0x05`. -/
def sboxAffineInverse (b : Byte) : Byte :=
  b.rotateRight 2 ^^^ b.rotateRight 5 ^^^ b.rotateRight 7 ^^^ 0x05

theorem sboxAffine_sboxAffineInverse : ∀ b : Byte, sboxAffine (sboxAffineInverse b) = b := by
  decide +kernel

/-- The printed entry with the affine map undone is the multiplicative inverse (R106). -/
theorem gmul_sboxAffineInverse_sbox :
    ∀ x : Byte, x ≠ 0x00 → gmul x (sboxAffineInverse (sbox x)) = 0x01 := by decide +kernel

/-- Settles O33: `sboxAffineInverse` reads the inverse off the printed entry, `gmul`'s laws make it the only
one, and InvSBox undoes SBox, so SBox is injective. -/
theorem sboxIsTheAffineImageOfTheInverse : Obligations.SboxIsTheAffineImageOfTheInverse := by
  unfold Obligations.SboxIsTheAffineImageOfTheInverse
  refine ⟨fun b i hi => getLsbD_sboxAffine b hi, by decide, fun x hx => ?_,
    fun _ _ h => sbox_injective h, by decide, by decide, by decide⟩
  have hinv : gmul x (sboxAffineInverse (sbox x)) = 0x01 := gmul_sboxAffineInverse_sbox x hx
  exact ⟨_, hinv, fun _ hz => gmul_inverse_unique hinv hz, (sboxAffine_sboxAffineInverse _).symm⟩

/-! RCon and the expander's reads of it (R108). -/

/-- From index 1 on, each entry doubles the one before. -/
theorem rcon_succ {i : Nat} (h1 : 1 ≤ i) (h10 : i < 10) : rcon (i + 1) = xtime (rcon i) := by
  have h : ∀ i < 10, 1 ≤ i → rcon (i + 1) = xtime (rcon i) := by decide
  exact h i h10 h1

/-- The expander's transform at a multiple of Nk, the one that reads RCon (R122). -/
theorem transformTemp_of_mod_eq_zero {nk idx : Nat} (h : idx % nk = 0) (w : KeyWord) :
    transformTemp nk idx w = xorRcon (subWord (rotWord w)) (idx / nk) :=
  if_pos h

/-- The expander's transform at every other word index (R122). -/
theorem transformTemp_of_mod_ne_zero {nk idx : Nat} (h : idx % nk ≠ 0) (w : KeyWord) :
    transformTemp nk idx w = if 6 < nk ∧ idx % nk = 4 then subWord w else w :=
  if_neg h

/-- The multiples of Nk among the word indices of the expansion are `nk * 1` to `nk * last`, with R108's
`last` for the three key sizes. -/
theorem rconIndex_iff {nk last : Nat}
    (hsize : (nk = 4 ∧ last = 10) ∨ (nk = 6 ∧ last = 8) ∨ (nk = 8 ∧ last = 7)) (j : Nat) :
    nk ≤ nk * j ∧ nk * j < 4 * (nk + 6 + 1) ↔ 1 ≤ j ∧ j ≤ last := by
  rcases hsize with ⟨rfl, rfl⟩ | ⟨rfl, rfl⟩ | ⟨rfl, rfl⟩ <;> omega

/-- Settles O35: a word index that is a multiple of Nk is `nk * j` with `j = idx / nk`, the index of RCon
that the transform reads there. -/
theorem rconHoldsThePowersOfX : Obligations.RconHoldsThePowersOfX := by
  unfold Obligations.RconHoldsThePowersOfX
  refine ⟨rfl, rfl, rfl, rfl, fun _ => rcon_succ, fun nk last w hsize => ⟨fun idx hlo hhi => ⟨?_, ?_⟩, ?_⟩,
    fun _ _ => rfl⟩
  · intro hmod
    have hidx : idx = nk * (idx / nk) := (Nat.mul_div_cancel' (Nat.dvd_of_mod_eq_zero hmod)).symm
    obtain ⟨h1, hlast⟩ := (rconIndex_iff hsize (idx / nk)).1 (hidx ▸ ⟨hlo, hhi⟩)
    exact ⟨idx / nk, h1, hlast, hidx, transformTemp_of_mod_eq_zero hmod w⟩
  · exact fun hmod => transformTemp_of_mod_ne_zero hmod w
  · exact fun j h1 hlast => (rconIndex_iff hsize j).2 ⟨h1, hlast⟩

end Sys2Proof.Machine
end

section
/-! The key expansion (41_key_schedule.md): the schedule as a list of words, and R122's recurrence on it. -/

namespace Sys2Proof.Machine

/-- The schedule before its words are laid out as bytes (R121, R122). -/
def scheduleWords (k : List Byte) : List KeyWord :=
  expandWords (keyWords k.length) (4 * (rounds k.length + 1) - keyWords k.length)
    ((List.range (keyWords k.length)).map (keyWordAt k))

theorem expandKey_eq_flatMap (k : List Byte) : expandKey k = (scheduleWords k).flatMap KeyWord.bytes := rfl

theorem keyWords_le_schedule (len : Nat) : keyWords len ≤ 4 * (rounds len + 1) := by
  unfold rounds; omega

@[simp] theorem scheduleWords_length (k : List Byte) :
    (scheduleWords k).length = 4 * (rounds k.length + 1) := by
  simp [scheduleWords, Nat.add_sub_cancel' (keyWords_le_schedule _)]

/-- Word `i` of the schedule's bytes (R120). -/
theorem keyWordAt_expandKey (k : List Byte) {i : Nat} (h : i < 4 * (rounds k.length + 1)) :
    keyWordAt (expandKey k) i = wordIn (scheduleWords k) i := by
  rw [expandKey_eq_flatMap, keyWordAt_flatMap _ (by simpa using h)]

/-- Step 1 of R122: the first Nk words are the key's. -/
theorem keyWordAt_expandKey_of_lt (k : List Byte) {i : Nat} (h : i < keyWords k.length) :
    keyWordAt (expandKey k) i = keyWordAt k i := by
  rw [keyWordAt_expandKey k (h.trans_le (keyWords_le_schedule _)), scheduleWords,
    wordIn_expandWords_old _ _ _ (by simpa using h)]
  simp [wordIn, h]

/-- Step 2 of R122, for a key of any length that holds a word. -/
theorem keyWordAt_expandKey_of_ge (k : List Byte) {idx : Nat} (hnk : 0 < keyWords k.length)
    (hlo : keyWords k.length ≤ idx) (hhi : idx < 4 * (rounds k.length + 1)) :
    keyWordAt (expandKey k) idx =
      (keyWordAt (expandKey k) (idx - keyWords k.length)).xor
        (transformTemp (keyWords k.length) idx (keyWordAt (expandKey k) (idx - 1))) := by
  rw [keyWordAt_expandKey k hhi, keyWordAt_expandKey k (i := idx - keyWords k.length) (by omega),
    keyWordAt_expandKey k (i := idx - 1) (by omega)]
  exact wordIn_expandWords_new _ _ _ hnk (by simpa using hlo) (by simp; omega) (by simp)

/-- Settles O36: the first words by the copy of the key, the later ones by the expander's step, whose
transform is the statement's case split written with `rotWord`, `subWord` and `xorRcon`. -/
theorem expansionSatisfiesTheRecurrence : Obligations.ExpansionSatisfiesTheRecurrence := by
  unfold Obligations.ExpansionSatisfiesTheRecurrence
  intro k hlen
  have hnk : 0 < keyWords k.length := by unfold keyWords; omega
  exact ⟨expandKey_length hlen, fun _ => keyWordAt_expandKey_of_lt k,
    fun _ => keyWordAt_expandKey_of_ge k hnk⟩

end Sys2Proof.Machine
end

section
/-! The datapath units of the inverse cipher (42_inverse_cipher.md, R141 to R146): each by its bytes, and the
fused passes as compositions of the single steps. -/

namespace Sys2Proof.Machine

/-! InvShiftRows (R141). -/

theorem byteAt_isr_matrix (s : Block) {r c : Nat} (hr : r < 4) (hc : c < 4) :
    byteAt (isr s) (r + 4 * c) = byteAt s (r + 4 * ((c + 4 - r) % 4)) := by
  rw [byteAt_isr s (by omega), shiftSource_matrix hr]

/-- The rule's list of the sixteen source positions. -/
theorem isr_eq_positions (s : Block) :
    isr s = #v[s[0], s[13], s[10], s[7], s[4], s[1], s[14], s[11],
               s[8], s[5], s[2], s[15], s[12], s[9], s[6], s[3]] := by
  refine byteAt_ext fun k hk => ?_
  rw [byteAt_isr s hk]
  interval_cases k <;> rfl

/-- Settles O24: the rule's formula, its list of positions, and the formula at row 0. -/
theorem invShiftRowsIsTheRulesPermutation : Obligations.InvShiftRowsIsTheRulesPermutation := by
  unfold Obligations.InvShiftRowsIsTheRulesPermutation
  refine fun s => ⟨fun _ hr _ hc => byteAt_isr_matrix s hr hc, isr_eq_positions s, fun c hc => ?_⟩
  have hcol : (c + 4 - 0) % 4 = c := by omega
  simpa only [hcol, Nat.zero_add] using byteAt_isr_matrix s (r := 0) (by decide) hc

/-! InvSubBytes, alone and fused with InvShiftRows (R142, R144). -/

theorem getElem_isb (s : Block) (k : Fin 16) : (isb s)[k] = invSbox s[k] := by
  simpa only [byteAt_eq _ k.isLt, Fin.getElem_fin] using byteAt_isb s k.isLt

theorem isb_ofFn (f : Fin 16 → Byte) : isb (Vector.ofFn f) = Vector.ofFn fun k => invSbox (f k) :=
  byteAt_ext fun k hk => by rw [byteAt_isb _ hk, byteAt_ofFn _ hk, byteAt_ofFn _ hk]

theorem byteAt_isrsb_matrix (s : Block) {r c : Nat} (hr : r < 4) (hc : c < 4) :
    byteAt (isrsb s) (r + 4 * c) = invSbox (byteAt s (r + 4 * ((c + 4 - r) % 4))) := by
  rw [byteAt_isrsb s (by omega), shiftSource_matrix hr]

theorem isrsb_eq_isb_isr (s : Block) : isrsb s = isb (isr s) :=
  byteAt_ext fun k hk => by rw [byteAt_isrsb s hk, byteAt_isb _ hk, byteAt_isr s hk]

theorem isrsb_eq_isr_isb (s : Block) : isrsb s = isr (isb s) :=
  byteAt_ext fun k hk => by rw [byteAt_isrsb s hk, byteAt_isr _ hk, byteAt_isb s (shiftSource_lt k)]

/-- Settles O25: a bytewise map of a rearranged block is the rearranged map. -/
theorem invSubBytesCommutesWithPermutations : Obligations.InvSubBytesCommutesWithPermutations := by
  unfold Obligations.InvSubBytesCommutesWithPermutations
  refine ⟨getElem_isb, fun s p => ?_, fun s => ?_⟩
  · simp only [isb_ofFn, getElem_isb]
  · rw [← isrsb_eq_isb_isr, isrsb_eq_isr_isb]

/-- Settles O27: the pass by its bytes, and as the two steps in either order. -/
theorem fusedShiftSubIsTheTwoSteps : Obligations.FusedShiftSubIsTheTwoSteps := by
  unfold Obligations.FusedShiftSubIsTheTwoSteps
  exact fun s => ⟨fun _ hr _ hc => byteAt_isrsb_matrix s hr hc, isrsb_eq_isb_isr s, isrsb_eq_isr_isb s⟩

/-! InvMixColumns, alone and fused with the two steps (R143, R145). -/

theorem byteAt_imc_column (s : Block) {r c : Nat} (hr : r < 4) (hc : c < 4) :
    byteAt (imc s) (4 * c + r) = invMixByte r (byteAt s (4 * c)) (byteAt s (4 * c + 1))
      (byteAt s (4 * c + 2)) (byteAt s (4 * c + 3)) := by
  rw [byteAt_imc s (by omega), show (4 * c + r) % 4 = r by omega, show (4 * c + r) / 4 = c by omega]

/-- Settles O26: byte `4c + r` of the unit is `invMixByte r` of column `c`, here at each of the four rows. -/
theorem invMixColumnsByTheCoefficientRows : Obligations.InvMixColumnsByTheCoefficientRows := by
  unfold Obligations.InvMixColumnsByTheCoefficientRows
  intro s c hc
  exact ⟨byteAt_imc_column s (r := 0) (by decide) hc, byteAt_imc_column s (r := 1) (by decide) hc,
    byteAt_imc_column s (r := 2) (by decide) hc, byteAt_imc_column s (r := 3) (by decide) hc⟩

/-- The fused pass substitutes and shifts what InvMixColumns leaves (R145). -/
theorem imcsbsr_eq_isrsb_imc (s : Block) : imcsbsr s = isrsb (imc s) := rfl

/-- InvSBox is not linear: on a block with one byte set the two orders differ in byte 0. -/
theorem isb_imc_ne_imc_isb :
    isb (imc #v[1, 0, 0, 0, 0, 0, 0, 0, 0, 0, 0, 0, 0, 0, 0, 0]) ≠
      imc (isb #v[1, 0, 0, 0, 0, 0, 0, 0, 0, 0, 0, 0, 0, 0, 0, 0]) := fun h =>
  absurd (congrArg (byteAt · 0) h) (by decide)

/-- Settles O28: the fused pass is `isrsb` of the mixed block, so its bytes and its order are those of
`isrsb`; `isb_imc_ne_imc_isb` exhibits the block. -/
theorem fusedMixIsMixThenShiftSub : Obligations.FusedMixIsMixThenShiftSub := by
  unfold Obligations.FusedMixIsMixThenShiftSub
  refine ⟨fun s => ?_, _, isb_imc_ne_imc_isb⟩
  rw [imcsbsr_eq_isrsb_imc]
  exact ⟨fun _ hr _ hc => byteAt_isrsb_matrix _ hr hc, rfl, isrsb_eq_isr_isb _⟩

/-! AddRoundKey (R146). -/

theorem ark_ark (s : Block) (r : List Byte) (i : Nat) : ark (ark s r i) r i = s :=
  byteAt_ext fun k hk => by rw [byteAt_ark _ r i hk, byteAt_ark s r i hk, xor_cancel_right]

/-- Settles O29: a second XOR with the same schedule byte cancels the first. -/
theorem addRoundKeyIsItsOwnInverse : Obligations.AddRoundKeyIsItsOwnInverse := by
  unfold Obligations.AddRoundKeyIsItsOwnInverse
  exact fun s r i => ⟨fun _ hk => byteAt_ark s r i hk, ark_ark s r i⟩

end Sys2Proof.Machine
end

section
/-! The block function (42_inverse_cipher.md): the fused order against the textbook's (R147, R148), and
DECRYPT_BLOCK as a function of BLK and the schedule (R150, R151). -/

namespace Sys2Proof.Machine

/-- The fused rounds, run on a block that InvShiftRows and InvSubBytes have already passed, are the textbook's
rounds: each fused pass ends with the two steps that open the textbook's next round. -/
theorem invRounds_isrsb (r : List Byte) (n : Nat) (s : Block) :
    invRounds r (n + 1) (isrsb s) = ark (isb (isr (textbookRounds r n s))) r 0 := by
  induction n generalizing s with
  | zero => rw [isrsb_eq_isb_isr]; rfl
  | succ n ih =>
    calc invRounds r (n + 2) (isrsb s)
        = invRounds r (n + 1) (imcsbsr (ark (isrsb s) r (n + 1))) := rfl
      _ = invRounds r (n + 1) (isrsb (imc (ark (isb (isr s)) r (n + 1)))) := by
          rw [imcsbsr_eq_isrsb_imc, isrsb_eq_isb_isr s]
      _ = ark (isb (isr (textbookRounds r (n + 1) s))) r 0 := ih _

/-- Settles O30: with at least one round, `invCipher` starts the fused rounds on the block of
`invRounds_isrsb`. -/
theorem invCipherEqualsTheUnfusedReference : Obligations.InvCipherEqualsTheUnfusedReference := by
  unfold Obligations.InvCipherEqualsTheUnfusedReference
  intro r nr block hnr
  obtain ⟨n, rfl⟩ := Nat.exists_eq_add_of_le' hnr
  exact invRounds_isrsb r n (ark block r (n + 1))

/-! What DECRYPT_BLOCK and EXPAND leave, as functions of what they read (R151). -/

theorem blk_of_exec_decryptBlock {s t : State} (hksv : s.ksv = true)
    (h : exec (.decryptBlock 16) s = .next t) : t.blk = invCipher s.roundKeys s.nr.toNat s.blk := by
  obtain rfl := Host.Outcome.next.inj (h.symm.trans (execDecryptBlock_ok hksv))
  rfl

theorem keyOperand_length {len : Nat} (h : len ≤ 32) (s : State) : (keyOperand len s).length = len := by
  simp [keyOperand, h]

/-- NR holds the round count of every legal key length: at most 14, so 4 bits suffice (R6, R25). -/
theorem toNat_nr_installSchedule {len : Nat} (hlen : len ≤ 32) (s : State) :
    (installSchedule len s).nr.toNat = rounds len := by
  rw [installSchedule_nr, BitVec.toNat_ofNat, Nat.mod_eq_of_lt (by unfold rounds keyWords; omega)]

/-- After EXPAND of a legal length the schedule is the expansion of `KEY[0, L)` (R127). -/
theorem roundKeys_installSchedule {len : Nat} (hlen : len = 16 ∨ len = 24 ∨ len = 32) (s : State) :
    (installSchedule len s).roundKeys = expandKey (keyOperand len s) := by
  have hkey : (keyOperand len s).length = len := keyOperand_length (by omega) s
  have hexp : (expandKey (keyOperand len s)).length = 16 * (rounds len + 1) := by
    rw [expandKey_length (by rwa [hkey]), hkey]
  have hfits : 16 * (rounds len + 1) ≤ 240 := by unfold rounds keyWords; omega
  rw [State.roundKeys, installSchedule_rk, toNat_nr_installSchedule (by omega), ← hexp]
  exact take_putPrefix _ _ (hexp ▸ hfits)

theorem schedule_of_exec_expand {s t : State} {len : Nat} (hlen : len = 16 ∨ len = 24 ∨ len = 32)
    (h : exec (.expand len) s = .next t) :
    t.nr = BitVec.ofNat 4 (rounds len) ∧ t.roundKeys = expandKey (keyOperand len s) := by
  obtain rfl := Host.Outcome.next.inj (h.symm.trans (execExpand_legal hlen s))
  exact ⟨installSchedule_nr len s, roundKeys_installSchedule hlen s⟩

/-- Settles O23: BLK is `invCipher` of the schedule and the old BLK, and EXPAND's schedule is the expansion of
the key bytes, whatever else the two states hold. -/
theorem decryptBlockIsPure : Obligations.DecryptBlockIsPure := by
  unfold Obligations.DecryptBlockIsPure
  refine ⟨fun s s' t t' hksv hksv' hblk hnr hrk ht ht' => ?_, fun s s' t t' len hlen hkey ht ht' => ?_⟩
  · rw [blk_of_exec_decryptBlock hksv ht, blk_of_exec_decryptBlock hksv' ht', hblk, hnr, hrk]
  · have hoperand : keyOperand len s = keyOperand len s' := hkey
    obtain ⟨hnr, hrk⟩ := schedule_of_exec_expand hlen ht
    obtain ⟨hnr', hrk'⟩ := schedule_of_exec_expand hlen ht'
    exact ⟨hnr.trans hnr'.symm, by rw [hrk, hrk', hoperand]⟩

end Sys2Proof.Machine
end

section
/-! The block stream (43_block_stream.md): what DECRYPT_BUF leaves in a chunk, in the tail and outside the
buffer (R170, R172 to R174). -/

namespace Sys2Proof.Machine

/-! The blocks a memory holds. -/

theorem Memory.holdsBlock_of_written {m : Memory} {a : Nat}
    (h : ∀ j < 16, (Memory.read m (a + j)).isSome) :
    Memory.HoldsBlock m a (Vector.ofFn fun k => (Memory.read m (a + k.val)).getD 0) := by
  intro j hj
  obtain ⟨c, hc⟩ := Option.isSome_iff_exists.1 (h j hj)
  rw [byteAt_ofFn _ hj, hc, Option.getD_some]

theorem Memory.HoldsBlock.unique {m : Memory} {a : Nat} {b c : Block}
    (hb : Memory.HoldsBlock m a b) (hc : Memory.HoldsBlock m a c) : b = c :=
  byteAt_ext fun j hj => Option.some.inj ((hb j hj).symm.trans (hc j hj))

theorem Memory.HoldsBlock.readBlock_eq {m : Memory} {a : Nat} {b : Block}
    (hb : Memory.HoldsBlock m a b) : Memory.readBlock m a = some b := by
  have hw : ∀ j < 16, (Memory.read m (a + j)).isSome := fun j hj => hb j hj ▸ rfl
  rw [Memory.readBlock_of_written hw, (Memory.holdsBlock_of_written hw).unique hb]

/-! The buffer under the state's schedule. -/

/-- The decrypted buffer outside its full chunks (R173). -/
theorem read_decryptBuffer_outside (s : State) {a : Nat}
    (h : a < s.bufOff.toNat ∨ s.bufOff.toNat + 16 * (s.bufLen.toNat / 16) ≤ a) :
    Memory.read (decryptBuffer s).dbuf a = Memory.read s.dbuf a :=
  decryptChunks_read_outside _ _ _ _ h

/-- The decrypted buffer on a full chunk that holds a block (R172). -/
theorem holdsBlock_decryptBuffer {s : State} {k : Nat} {b : Block} (hk : k < s.bufLen.toNat / 16)
    (hb : Memory.HoldsBlock s.dbuf (s.bufOff.toNat + 16 * k) b) :
    Memory.HoldsBlock (decryptBuffer s).dbuf (s.bufOff.toNat + 16 * k)
      (invCipher s.roundKeys s.nr.toNat b) :=
  fun _ hj => decryptChunks_read_written (decryptWith s) _ _ _ hk hb.readBlock_eq hj

/-! DECRYPT_BUF. -/

/-- DECRYPT_BUF decrypts the buffer, or it ends with an error and keeps DBUF; the schedule and the range say
which (R170). -/
theorem exec_decryptBuf_next {s t : State} (h : exec .decryptBuf s = .next t) :
    ((s.ksv = true ∧ s.bufOff.toNat + s.bufLen.toNat ≤ s.cfg.bufSize) ∧
      t.errcode = 0 ∧ t.dbuf = (decryptBuffer s).dbuf) ∨
    (¬ (s.ksv = true ∧ s.bufOff.toNat + s.bufLen.toNat ≤ s.cfg.bufSize) ∧
      t.errcode ≠ 0 ∧ t.dbuf = s.dbuf) := by
  have hcases := exec_next h
  simp only [reduceCtorEq, false_and, exists_false, false_or, true_and] at hcases
  rcases hcases with ⟨hksv, rfl⟩ | ⟨-, hrange, rfl⟩ | ⟨hksv, hrange, rfl⟩
  · exact .inr ⟨by simp [hksv], by simp [EngineError.code], rfl⟩
  · exact .inr ⟨fun hok => absurd hok.2 (by omega), by simp [EngineError.code], rfl⟩
  · exact .inl ⟨⟨hksv, hrange⟩, rfl, rfl⟩

theorem errcode_exec_decryptBuf_eq_zero_iff {s t : State} (h : exec .decryptBuf s = .next t) :
    t.errcode = 0 ↔ s.ksv = true ∧ s.bufOff.toNat + s.bufLen.toNat ≤ s.cfg.bufSize := by
  rcases exec_decryptBuf_next h with ⟨hok, herr, -⟩ | ⟨hok, herr, -⟩
  · exact iff_of_true herr hok
  · exact iff_of_false herr hok

theorem dbuf_exec_decryptBuf_of_error {s t : State} (h : exec .decryptBuf s = .next t)
    (herr : t.errcode ≠ 0) : t.dbuf = s.dbuf := by
  rcases exec_decryptBuf_next h with ⟨-, hzero, -⟩ | ⟨-, -, hdbuf⟩
  · exact absurd hzero herr
  · exact hdbuf

/-- A full chunk that holds a block ends as `InvCipher` of that block (R172). -/
theorem holdsBlock_exec_decryptBuf {s t : State} {k : Nat} {b : Block}
    (h : exec .decryptBuf s = .next t) (herr : t.errcode = 0) (hk : k < s.bufLen.toNat / 16)
    (hb : Memory.HoldsBlock s.dbuf (s.bufOff.toNat + 16 * k) b) :
    Memory.HoldsBlock t.dbuf (s.bufOff.toNat + 16 * k) (invCipher s.roundKeys s.nr.toNat b) := by
  rcases exec_decryptBuf_next h with ⟨-, -, hdbuf⟩ | ⟨-, hne, -⟩
  · exact hdbuf ▸ holdsBlock_decryptBuffer hk hb
  · exact absurd herr hne

theorem read_exec_decryptBuf_outside {s t : State} {a : Nat} (h : exec .decryptBuf s = .next t)
    (ha : a < s.bufOff.toNat ∨ s.bufOff.toNat + 16 * (s.bufLen.toNat / 16) ≤ a) :
    Memory.read t.dbuf a = Memory.read s.dbuf a := by
  rcases exec_decryptBuf_next h with ⟨-, -, hdbuf⟩ | ⟨-, -, hdbuf⟩
  · rw [hdbuf, read_decryptBuffer_outside s ha]
  · rw [hdbuf]

/-- DBUF is not among what decides the error, so two runs from states that differ in DBUF only agree on a
chunk that both hold written: `InvCipher` of its block in both, or the old bytes in both (R173). -/
theorem read_exec_decryptBuf_congr {s t u : State} {m : Memory} {k : Nat}
    (ht : exec .decryptBuf s = .next t) (hu : exec .decryptBuf { s with dbuf := m } = .next u)
    (hk : k < s.bufLen.toNat / 16)
    (hm : ∀ j < 16, Memory.read m (s.bufOff.toNat + 16 * k + j) =
      Memory.read s.dbuf (s.bufOff.toNat + 16 * k + j))
    (hw : ∀ j < 16, (Memory.read s.dbuf (s.bufOff.toNat + 16 * k + j)).isSome) {j : Nat} (hj : j < 16) :
    Memory.read u.dbuf (s.bufOff.toNat + 16 * k + j) =
      Memory.read t.dbuf (s.bufOff.toNat + 16 * k + j) := by
  have hsame : u.errcode = 0 ↔ t.errcode = 0 :=
    (errcode_exec_decryptBuf_eq_zero_iff hu).trans (errcode_exec_decryptBuf_eq_zero_iff ht).symm
  by_cases herr : t.errcode = 0
  · have hs := Memory.holdsBlock_of_written hw
    have hblock := holdsBlock_exec_decryptBuf hu (hsame.2 herr) hk
      fun j hj => (hm j hj).trans (hs j hj)
    exact (hblock j hj).trans (holdsBlock_exec_decryptBuf ht herr hk hs j hj).symm
  · rw [dbuf_exec_decryptBuf_of_error ht herr, dbuf_exec_decryptBuf_of_error hu (mt hsame.1 herr)]
    exact hm j hj

/-- Settles O19: the chunks' writes stay in their range, and a wholly written chunk is a function of its own
bytes, which the two contents share. -/
theorem decryptBufLeavesTheTailAlone : Obligations.DecryptBufLeavesTheTailAlone := by
  unfold Obligations.DecryptBufLeavesTheTailAlone
  refine ⟨fun s t a ht ha => read_exec_decryptBuf_outside ht ha,
    fun s t u m hm ht hu k hk hw j hj => read_exec_decryptBuf_congr ht hu hk (fun i hi => ?_) hw hj⟩
  exact hm _ (by omega) (by omega)

/-- Settles O20: each new chunk is `InvCipher` of its own block under the schedule, which is also what
DECRYPT_BLOCK leaves in BLK. -/
theorem noChaining : Obligations.NoChaining := by
  unfold Obligations.NoChaining
  refine ⟨fun s t s' t' k k' b c c' ht ht' herr herr' hnr hrk hk hk' hb hb' hc hc' => ?_,
    fun s t u k ht herr hk hb hu => ?_, fun s t b1 b2 ht herr hlen hb1 hb2 => ?_⟩
  · calc c = invCipher s.roundKeys s.nr.toNat b := hc.unique (holdsBlock_exec_decryptBuf ht herr hk hb)
      _ = invCipher s'.roundKeys s'.nr.toNat b := by rw [hrk, hnr]
      _ = c' := (holdsBlock_exec_decryptBuf ht' herr' hk' hb').unique hc'
  · obtain ⟨hksv, -⟩ := (errcode_exec_decryptBuf_eq_zero_iff ht).1 herr
    rw [blk_of_exec_decryptBlock hksv hu]
    exact holdsBlock_exec_decryptBuf ht herr hk hb
  · have hcount : s.bufLen.toNat / 16 = 2 := by rw [hlen]; rfl
    exact ⟨holdsBlock_exec_decryptBuf (k := 0) ht herr (by omega) hb1,
      holdsBlock_exec_decryptBuf (k := 1) ht herr (by omega) hb2⟩

end Sys2Proof.Machine
end

section
/-! Host writes (44_control_and_access.md): what an accepted write does by register and by BUSY (R181 to
R186), and the writes that settle it. -/

namespace Sys2Proof.Machine

/-! One case of the write's effect each (R181). -/

theorem writeReg_idle {v : Word} {r : Reg} {s : State} (hw : r.writable = true) (hb : s.busy = false) :
    writeReg v r s = { storeReg v s r with resp := .ack } := by
  have hstatus : r ≠ .status := by rintro rfl; cases hw
  rw [writeReg, writeEffect, if_neg hstatus, if_neg (by simp [hw]), if_neg (by simp [hb])]

theorem writeReg_busy {v : Word} {r : Reg} {s : State} (hw : r.writable = true) (hb : s.busy = true) :
    writeReg v r s = { s with ovr := true, resp := .ack } := by
  have hstatus : r ≠ .status := by rintro rfl; cases hw
  rw [writeReg, writeEffect, if_neg hstatus, if_neg (by simp [hw]), if_pos hb, dropWrite]

theorem writeReg_ignored {v : Word} {r : Reg} {s : State} (hstatus : r ≠ .status)
    (hw : r.writable = false) : writeReg v r s = { s with resp := .ack } := by
  rw [writeReg, writeEffect, if_neg hstatus, if_pos hw]

/-- The step of a write to a writable register of an idle engine is the register's store. -/
theorem step_write_idle {s : State} {addr : Nat} {v : Word} {r : Reg} (hnext : s.HostNext (.wr addr 4 v))
    (h4 : addr % 4 = 0) (hreg : regAt s.cfg (addr % 0x10000) = r) (hw : r.writable = true)
    (hb : s.busy = false) :
    step s = .next { storeReg v s.afterEvent r with resp := .ack } := by
  rw [step_write hnext h4, hreg, writeReg_idle (s := s.afterEvent) hw hb]

/-- A DBUF word's store: its four bytes are written, every other byte is as before (R9, R182). -/
theorem read_storeReg_dbuf (v : Word) (s : State) (i a : Nat) :
    Memory.read (storeReg v s (.dbuf i)).dbuf a =
      if a / 4 = i then some (byteOf v (a % 4)) else Memory.read s.dbuf a := by
  rw [storeReg, Memory.read_writeBytes]
  by_cases ha : a / 4 = i
  · have hmod : a - 4 * i = a % 4 := by omega
    have hlt : a % 4 < 4 := by omega
    rw [if_pos ha, if_pos ⟨by omega, by simp only [List.length_cons, List.length_nil]; omega⟩, hmod]
    interval_cases a % 4 <;> rfl
  · rw [if_neg ha, if_neg (by simp only [List.length_cons, List.length_nil]; omega)]

/-- Settles O40: CMD is a writable register, and its store is the acceptance, which does not decode. -/
theorem commandWriteIsAccepted : Obligations.CommandWriteIsAccepted := by
  unfold Obligations.CommandWriteIsAccepted
  intro s addr v hnext hoff hb
  have hreg : regAt s.cfg (addr % 0x10000) = .cmd := (regAt_cmd_iff _ _).2 hoff
  exact ⟨.ack, step_write_idle hnext (by omega) hreg rfl hb⟩

/-- Settles O41: the offsets named are those of the writable registers, whose writes a busy engine drops. -/
theorem writesWhileBusyAreDropped : Obligations.WritesWhileBusyAreDropped := by
  unfold Obligations.WritesWhileBusyAreDropped
  intro s addr v hnext h4 hoff hb
  have hw : (regAt s.cfg (addr % 0x10000)).writable = true := (regAt_writable_iff _ _).2 hoff
  exact ⟨.ack, by rw [step_write hnext h4, writeReg_busy (s := s.afterEvent) hw hb]⟩

/-- Settles O42: none of these offsets is writable or STATUS, and the rest is ignored before BUSY is asked. -/
theorem readOnlyAndReservedWritesAreIgnored : Obligations.ReadOnlyAndReservedWritesAreIgnored := by
  unfold Obligations.ReadOnlyAndReservedWritesAreIgnored
  intro s addr v hnext h4 hoff
  unfold ReservedOffset at hoff
  have hstatus : regAt s.cfg (addr % 0x10000) ≠ .status := by
    rw [Ne, regAt_status_iff]; omega
  have hw : (regAt s.cfg (addr % 0x10000)).writable = false := by
    rw [Bool.eq_false_iff, Ne, regAt_writable_iff]; unfold WritableOffset; omega
  exact ⟨.ack, by rw [step_write hnext h4, writeReg_ignored hstatus hw]⟩

/-- Settles O43: each offset names one writable register, whose store puts the word, or the four bytes of the
array's word. -/
theorem idleDataWriteStoresFourBytes : Obligations.IdleDataWriteStoresFourBytes := by
  unfold Obligations.IdleDataWriteStoresFourBytes
  intro s addr v hnext hb
  refine ⟨fun hoff => ?_, fun hoff => ?_, fun i hi hoff => ?_, fun i hi hoff => ?_, fun i hi hoff => ?_⟩
  · have hreg : regAt s.cfg (addr % 0x10000) = .bufOff := (regAt_bufOff_iff _ _).2 hoff
    exact ⟨.ack, step_write_idle hnext (by omega) hreg rfl hb⟩
  · have hreg : regAt s.cfg (addr % 0x10000) = .bufLen := (regAt_bufLen_iff _ _).2 hoff
    exact ⟨.ack, step_write_idle hnext (by omega) hreg rfl hb⟩
  · have hreg : regAt s.cfg (addr % 0x10000) = .key i := by rw [hoff, regAt_key _ hi]
    exact ⟨_, .ack, step_write_idle hnext (by omega) hreg rfl hb,
      fun _ hk => byteAt_putWord s.key i v hk⟩
  · have hreg : regAt s.cfg (addr % 0x10000) = .blk i := by rw [hoff, regAt_blk _ hi]
    exact ⟨_, .ack, step_write_idle hnext (by omega) hreg rfl hb,
      fun _ hk => byteAt_putWord s.blk i v hk⟩
  · have hreg : regAt s.cfg (addr % 0x10000) = .dbuf i := by rw [hoff, regAt_dbuf hi]
    exact ⟨_, .ack, step_write_idle hnext (by omega) hreg rfl hb,
      read_storeReg_dbuf v s i⟩

end Sys2Proof.Machine
end

section
/-! Exceptions (60_exceptions.md): how the engine's turn ends, with an error and without (R203 to R205), the
code each command leaves (R200, R208) and when a schedule may appear (R201). -/

namespace Sys2Proof.Machine

/-! The codes (R200). -/

@[simp] theorem EngineError.code_eq_one_iff (e : EngineError) :
    e.code = 1#4 ↔ e = .invalidKeyLength := by
  cases e <;> decide

/-! The engine's turn by its latched word (R188). -/

section
variable {s : State} {v : Word} (hturn : s.EngineNext) (hcur : s.cur = some v)
include hturn hcur

theorem step_illegalWord (hill : IllegalWord v) :
    step s = .next (raiseError .illegalCmd s.afterEvent) := by
  obtain ⟨e, he⟩ := (illegalWord_iff v).1 hill
  rcases engineStep_of_decode (s := s.afterEvent) hcur with ⟨i, hi, -⟩ | ⟨-, -, hstep⟩
  · cases he.symm.trans hi
  · exact (step_engine hturn).trans hstep

theorem step_legalWord (hlegal : ¬ IllegalWord v) :
    ∃ i, decode v = .ok i ∧ step s = exec i s.afterEvent := by
  rcases engineStep_of_decode (s := s.afterEvent) hcur with ⟨i, hi, hstep⟩ | ⟨e, he, -⟩
  · exact ⟨i, hi, (step_engine hturn).trans hstep⟩
  · exact absurd ((illegalWord_iff v).2 ⟨e, he⟩) hlegal

end

/-- Settles O5: the decoder rejects the word, and the turn is the error completion, whose fields are those
of the statement. -/
theorem illegalWordsCompleteWithIllegalCmd : Obligations.IllegalWordsCompleteWithIllegalCmd := by
  unfold Obligations.IllegalWordsCompleteWithIllegalCmd
  exact fun s v hturn hcur hill => step_illegalWord hturn hcur hill

/-! A turn that ends without error, and one that ends with one (R204, R205). -/

/-- A command that ends with an error is `raiseError`, on the state as it was or, for INVALID_KEY_LENGTH, on
the state with its schedule invalidated. -/
theorem exec_error {i : Instr} {s t : State} (h : exec i s = .next t) (herr : t.errcode ≠ 0) :
    t = raiseError .invalidKeyLength (clearSchedule s) ∨
      ∃ e, e ≠ .invalidKeyLength ∧ t = raiseError e s := by
  rcases exec_next h with ⟨-, rfl⟩ | ⟨len, -, -, rfl⟩ | ⟨len, -, -, rfl⟩ | ⟨len, -, -, rfl⟩ |
    ⟨-, -, rfl⟩ | ⟨-, -, rfl⟩ | ⟨-, -, rfl⟩ | ⟨-, -, -, rfl⟩ | ⟨-, -, -, rfl⟩
  · exact absurd (complete_errcode _) herr
  · exact absurd (complete_errcode _) herr
  · exact .inl rfl
  · exact .inr ⟨_, by decide, rfl⟩
  · exact .inr ⟨_, by decide, rfl⟩
  · exact absurd (complete_errcode _) herr
  · exact .inr ⟨_, by decide, rfl⟩
  · exact .inr ⟨_, by decide, rfl⟩
  · exact absurd (complete_errcode _) herr

/-- `exec_error` for the whole turn, illegal words included. -/
theorem engine_error {s t : State} (hturn : s.EngineNext) (h : step s = .next t) (herr : t.errcode ≠ 0) :
    t = raiseError .invalidKeyLength (clearSchedule s.afterEvent) ∨
      ∃ e, e ≠ .invalidKeyLength ∧ t = raiseError e s.afterEvent := by
  obtain ⟨v, -, ⟨i, -, hexec⟩ | ⟨-, rfl⟩⟩ := engine_next hturn h
  · exact exec_error hexec herr
  · exact .inr ⟨_, by decide, rfl⟩

/-- Settles O8: with ERRCODE 0 the turn was a command's, not an illegal word's, and `exec_status` gives what
its completion leaves. -/
theorem completionWithoutErrorSetsStatus : Obligations.CompletionWithoutErrorSetsStatus := by
  unfold Obligations.CompletionWithoutErrorSetsStatus
  intro s t hturn h hzero
  obtain ⟨v, -, ⟨i, -, hexec⟩ | ⟨-, rfl⟩⟩ := engine_next hturn h
  · obtain ⟨hdone, hbusy, hcur, hovr, herr, -⟩ := exec_status hexec
    exact ⟨hdone, hbusy, hcur, herr hzero, hovr⟩
  · exact absurd hzero (by decide : EngineError.illegalCmd.code ≠ 0)

/-- Settles O9: an error turn is `raiseError`, which writes STATUS only; the schedule was invalidated before it
exactly on code 1. -/
theorem errorsArePrecise : Obligations.ErrorsArePrecise := by
  unfold Obligations.ErrorsArePrecise
  intro s t hturn h herr
  rcases engine_error hturn h herr with rfl | ⟨e, he, rfl⟩
  · simp
  · simp [he]

/-! The code each command leaves (R208). -/

theorem errcode_exec_nop {s t : State} (h : exec .nop s = .next t) : t.errcode = 0 := by
  obtain rfl : complete s = t := Host.Outcome.next.inj h
  exact complete_errcode s

theorem errcode_exec_expand {s t : State} {len : Nat} (h : exec (.expand len) s = .next t) :
    t.errcode = if len = 16 ∨ len = 24 ∨ len = 32 then 0 else 1 := by
  split_ifs with hlen
  · obtain rfl := Host.Outcome.next.inj (h.symm.trans (execExpand_legal hlen s))
    exact complete_errcode _
  · obtain rfl := Host.Outcome.next.inj (h.symm.trans (execExpand_illegal hlen s))
    exact raiseError_errcode _ _

theorem errcode_exec_decryptBlock {s t : State} {len : Nat} (h : exec (.decryptBlock len) s = .next t) :
    t.errcode = if len ≠ 16 then 2 else if s.ksv = false then 3 else 0 := by
  split_ifs with hlen hksv
  · obtain rfl := Host.Outcome.next.inj (h.symm.trans (execDecryptBlock_badLength hlen s))
    exact raiseError_errcode _ _
  · obtain rfl : len = 16 := not_not.1 hlen
    obtain rfl := Host.Outcome.next.inj (h.symm.trans (execDecryptBlock_noSchedule hksv))
    exact raiseError_errcode _ _
  · obtain rfl : len = 16 := not_not.1 hlen
    obtain rfl := Host.Outcome.next.inj (h.symm.trans (execDecryptBlock_ok (eq_true_of_ne_false hksv)))
    exact complete_errcode _

theorem errcode_exec_decryptBuf {s t : State} (h : exec .decryptBuf s = .next t) :
    t.errcode = if s.ksv = false then 3
      else if s.cfg.bufSize < s.bufOff.toNat + s.bufLen.toNat then 5 else 0 := by
  split_ifs with hksv hrange
  · obtain rfl := Host.Outcome.next.inj (h.symm.trans (execDecryptBuf_noSchedule hksv))
    exact raiseError_errcode _ _
  · obtain rfl := Host.Outcome.next.inj
      (h.symm.trans (execDecryptBuf_badRange (eq_true_of_ne_false hksv) hrange))
    exact raiseError_errcode _ _
  · obtain rfl := Host.Outcome.next.inj
      (h.symm.trans (execDecryptBuf_ok (eq_true_of_ne_false hksv) (not_lt.1 hrange)))
    exact complete_errcode _

/-- OP alone says which command a legal word is (R82). -/
theorem command_of_opField {w : Word} {i : Instr} (h : decode w = .ok i) :
    (opField w = 0 → i = .nop) ∧ (opField w = 1 → i = .expand (lenField w).toNat) ∧
      (opField w = 2 → i = .decryptBlock (lenField w).toNat) ∧ (opField w = 3 → i = .decryptBuf) := by
  obtain ⟨-, -, ⟨hop, -, rfl⟩ | ⟨hop, rfl⟩ | ⟨hop, rfl⟩ | ⟨hop, -, rfl⟩⟩ := decode_cases h <;> simp [hop]

theorem toNat_lenField_eq_iff (w : Word) {n : Nat} (hn : n < 256) :
    (lenField w).toNat = n ↔ lenField w = BitVec.ofNat 8 n := by
  rw [BitVec.toNat_eq, BitVec.toNat_ofNat, Nat.mod_eq_of_lt hn]

/-- Settles O10: an illegal word has its own code, and a legal one the code of the command that its OP names,
run with its LEN. -/
theorem errorCodeIsTheFirstThatApplies : Obligations.ErrorCodeIsTheFirstThatApplies := by
  unfold Obligations.ErrorCodeIsTheFirstThatApplies
  intro s t v hturn hcur h
  have hlen {n : Nat} (hn : n < 256) := toNat_lenField_eq_iff v hn
  refine ⟨fun hill => ?_, fun hlegal => ?_⟩
  · obtain rfl := Host.Outcome.next.inj (h.symm.trans (step_illegalWord hturn hcur hill))
    exact raiseError_errcode _ _
  · obtain ⟨i, hdecode, hstep⟩ := step_legalWord hturn hcur hlegal
    have hexec := hstep.symm.trans h
    obtain ⟨hnop, hexpand, hblock, hbuf⟩ := command_of_opField hdecode
    refine ⟨fun hop => ?_, fun hop => ?_, fun hop => ?_, fun hop => ?_⟩
    · obtain rfl := hnop hop
      exact errcode_exec_nop hexec
    · obtain rfl := hexpand hop
      exact (errcode_exec_expand hexec).trans
        (if_congr (or_congr (hlen (by decide)) (or_congr (hlen (by decide)) (hlen (by decide)))) rfl rfl)
    · obtain rfl := hblock hop
      exact (errcode_exec_decryptBlock hexec).trans (if_congr (not_congr (hlen (by decide))) rfl rfl)
    · obtain rfl := hbuf hop
      exact errcode_exec_decryptBuf (s := s.afterEvent) hexec

/-! Without a schedule (R201, R206). -/

/-- Both decryptions without a schedule: NO_SCHEDULE (R206). -/
theorem exec_decryption_noSchedule {i : Instr} {s : State} (hksv : s.ksv = false)
    (hi : i = .decryptBlock 16 ∨ i = .decryptBuf) : exec i s = .next (raiseError .noSchedule s) := by
  rcases hi with rfl | rfl
  · exact execDecryptBlock_noSchedule hksv
  · exact execDecryptBuf_noSchedule hksv

@[simp] theorem decryptBuffer_ksv (s : State) : (decryptBuffer s).ksv = s.ksv := rfl

/-- Of the commands only EXPAND of a legal length makes a schedule (R201). -/
theorem expand_of_exec_ksv {i : Instr} {s t : State} (hksv : s.ksv = false) (h : exec i s = .next t)
    (hksv' : t.ksv = true) : ∃ len, i = .expand len ∧ (len = 16 ∨ len = 24 ∨ len = 32) := by
  rcases exec_next h with ⟨-, rfl⟩ | ⟨len, hi, hlen, -⟩ | ⟨len, -, -, rfl⟩ | ⟨len, -, -, rfl⟩ |
    ⟨-, -, rfl⟩ | ⟨-, -, rfl⟩ | ⟨-, -, rfl⟩ | ⟨-, -, -, rfl⟩ | ⟨-, -, -, rfl⟩
  case inr.inl => exact ⟨len, hi, hlen⟩
  -- every other end keeps KSV or clears it
  all_goals simp [hksv] at hksv'

theorem ksv_resetReleaseTurn {s : State} (hksv : s.ksv = false) : (resetReleaseTurn s).ksv = false := by
  unfold resetReleaseTurn
  split
  · exact releaseReset_ksv s
  · exact hksv

/-- A schedule appears at the engine's turn only: no host access and no reset makes one (R25). -/
theorem engineNext_of_step_ksv {s t : State} (hksv : s.ksv = false) (h : step s = .next t)
    (hksv' : t.ksv = true) : s.EngineNext := by
  by_contra hturn
  have hkept : t.ksv ≠ false := by simp [hksv']
  rcases step_cases h with ⟨hE, -⟩ | ⟨-, -, rfl⟩ | ⟨a, -, rfl⟩ | ⟨-, rfl⟩ | ⟨-, rfl⟩
  · exact hturn hE
  · exact hkept hksv
  · obtain ⟨-, hhost, -⟩ := hostAccess_frame a s.afterEvent
    exact hkept (hhost.trans hksv)
  · exact hkept hksv
  · exact hkept (ksv_resetReleaseTurn hksv)

/-- The step that makes a schedule is the completion of an EXPAND of a legal length (R201). -/
theorem expand_of_step_ksv {s t : State} (hksv : s.ksv = false) (h : step s = .next t)
    (hksv' : t.ksv = true) :
    s.EngineNext ∧ ∃ v len, s.cur = some v ∧ decode v = .ok (.expand len) ∧
      (len = 16 ∨ len = 24 ∨ len = 32) := by
  have hturn := engineNext_of_step_ksv hksv h hksv'
  obtain ⟨v, hcur, ⟨i, hdecode, hexec⟩ | ⟨-, rfl⟩⟩ := engine_next hturn h
  · obtain ⟨len, rfl, hlen⟩ := expand_of_exec_ksv (s := s.afterEvent) hksv hexec hksv'
    exact ⟨hturn, v, len, hcur, hdecode, hlen⟩
  · exact absurd (hksv.symm.trans hksv') Bool.false_ne_true

/-- Settles O13: the length check comes before any write, and `expand_of_step_ksv` says which step can end the
time without a schedule. -/
theorem expandOfABadLengthInvalidatesTheSchedule : Obligations.ExpandOfABadLengthInvalidatesTheSchedule := by
  unfold Obligations.ExpandOfABadLengthInvalidatesTheSchedule
  refine ⟨fun s len hlen => execExpand_illegal hlen s, fun t hksv => ⟨?_, ?_⟩,
    fun t u hksv h hksv' => expand_of_step_ksv hksv h hksv'⟩
  · exact ⟨_, exec_decryption_noSchedule hksv (.inl rfl), rfl, rfl⟩
  · exact ⟨_, exec_decryption_noSchedule hksv (.inr rfl), rfl, rfl⟩

/-- A failed EXPAND leaves no schedule (R201). -/
theorem ksv_exec_expand_of_error {s t : State} {len : Nat} (h : exec (.expand len) s = .next t)
    (herr : t.errcode ≠ 0) : t.ksv = false := by
  have hlen : ¬ (len = 16 ∨ len = 24 ∨ len = 32) := fun hlen =>
    herr ((errcode_exec_expand h).trans (if_pos hlen))
  obtain rfl := Host.Outcome.next.inj (h.symm.trans (execExpand_illegal hlen s))
  rfl

/-- Settles O16: NO_SCHEDULE is decided before any access, and reset and a failed EXPAND both leave KSV 0. -/
theorem decryptionsNeedASchedule : Obligations.DecryptionsNeedASchedule := by
  unfold Obligations.DecryptionsNeedASchedule
  exact ⟨fun s hksv i hi => exec_decryption_noSchedule hksv hi, rfl,
    fun s t len h herr => ksv_exec_expand_of_error h herr⟩

/-- Settles O17: the two cases of the range check, whose sum is one of natural numbers; a decrypted buffer
changes neither ERRCODE nor ERR but by the completion. -/
theorem decryptBufChecksTheRange : Obligations.DecryptBufChecksTheRange := by
  unfold Obligations.DecryptBufChecksTheRange
  exact fun s hksv => ⟨fun hrange => execDecryptBuf_badRange hksv hrange,
    fun hrange => ⟨_, execDecryptBuf_ok hksv hrange, rfl, rfl⟩⟩

end Sys2Proof.Machine
end

section
/-! The command word both ways (30_encoding.md): decoding what was encoded and encoding what was decoded. -/

namespace Sys2Proof.Machine

/-- A well-formed command's LEN survives the 8-bit field (R83); every other field is the command's own. -/
theorem decode_encode {i : Instr} (hi : i.wellFormed = true) : decode (encode i) = .ok i := by
  have toNat_len {len : Nat} (h : decide (len ≤ 255) = true) : (BitVec.ofNat 8 len).toNat = len := by
    rw [BitVec.toNat_ofNat, Nat.mod_eq_of_lt]
    have := of_decide_eq_true h
    omega
  rw [decode_eq_ok_iff]
  cases i with
  | nop => simp [encode]
  | expand len => simp [encode, -BitVec.toNat_ofNat, toNat_len hi]
  | decryptBlock len => simp [encode, -BitVec.toNat_ofNat, toNat_len hi]
  | decryptBuf => simp [encode]

/-- A legal word has no field but those its command is encoded with. -/
theorem encode_decode {w : Word} {i : Instr} (h : decode w = .ok i) : encode i = w := by
  obtain ⟨hrsv1, hrsv0, ⟨hop, hlen, rfl⟩ | ⟨hop, rfl⟩ | ⟨hop, rfl⟩ | ⟨hop, hlen, rfl⟩⟩ := decode_cases h <;>
    simp [word_eq_iff_fields, encode, *]

theorem wellFormed_of_decode {w : Word} {i : Instr} (h : decode w = .ok i) : i.wellFormed = true := by
  have hlen : (lenField w).toNat ≤ 255 := Nat.le_of_lt_succ (lenField w).isLt
  obtain ⟨-, -, ⟨-, -, rfl⟩ | ⟨-, rfl⟩ | ⟨-, rfl⟩ | ⟨-, -, rfl⟩⟩ := decode_cases h <;>
    simp [Instr.wellFormed, hlen]

/-- Settles O1: the decoder run on each word. -/
theorem canonicalWordsDecode : Obligations.CanonicalWordsDecode := by
  unfold Obligations.CanonicalWordsDecode
  decide

/-- Settles O2: the fields of the packed word are those the decoder reads back. -/
theorem decodeOfEncodeIsTheCommand : Obligations.DecodeOfEncodeIsTheCommand := by
  unfold Obligations.DecodeOfEncodeIsTheCommand
  exact fun _ => decode_encode

/-- Settles O3: a legal word's reserved fields are 0 and its OP and LEN are its command's. -/
theorem encodeOfDecodeIsTheWord : Obligations.EncodeOfDecodeIsTheWord := by
  unfold Obligations.EncodeOfDecodeIsTheWord
  exact fun _ _ h => ⟨encode_decode h, wellFormed_of_decode h⟩

end Sys2Proof.Machine
end

section
/-! The engine's turn and its commands (44_control_and_access.md, 41 to 43): that the turn of a busy engine
ends the command, what each command leaves, and what it leaves alone (R56). -/

namespace Sys2Proof.Machine

/-! The turn (R179, R188). -/

/-- Every command answers a next state. -/
theorem exec_isNext (i : Instr) (s : State) : ∃ t, exec i s = .next t := by
  rcases exec_cases i s with ⟨-, h⟩ | ⟨_, -, -, h⟩ | ⟨_, -, -, h⟩ | ⟨_, -, -, h⟩ |
    ⟨-, -, h⟩ | ⟨-, -, h⟩ | ⟨-, -, h⟩ | ⟨-, -, -, h⟩ | ⟨-, -, -, h⟩ <;> exact ⟨_, h⟩

theorem step_of_decode {s : State} {v : Word} {i : Instr} (hturn : s.EngineNext) (hcur : s.cur = some v)
    (hi : decode v = .ok i) : step s = exec i s.afterEvent := by
  rcases engineStep_of_decode (s := s.afterEvent) hcur with ⟨j, hj, hstep⟩ | ⟨e, he, -⟩
  · obtain rfl : i = j := Except.ok.inj (hi.symm.trans hj)
    exact (step_engine hturn).trans hstep
  · cases hi.symm.trans he

/-- A busy engine of a good state has a latched word (R29). -/
theorem exists_cur_of_busy {s : State} (hlatch : s.latchInv) (hbusy : s.busy = true) :
    ∃ v, s.cur = some v :=
  Option.isSome_iff_exists.1 (hlatch.symm.trans hbusy)

/-- With a word latched the engine's turn does not stop, whatever the word. -/
theorem engine_isNext {s : State} {v : Word} (hturn : s.EngineNext) (hcur : s.cur = some v) :
    ∃ t, step s = .next t := by
  by_cases hill : IllegalWord v
  · exact ⟨_, step_illegalWord hturn hcur hill⟩
  · obtain ⟨i, -, hstep⟩ := step_legalWord hturn hcur hill
    exact hstep ▸ exec_isNext i s.afterEvent

/-- `exec_status` for the whole turn, illegal words included. -/
theorem engine_status {s t : State} (hturn : s.EngineNext) (h : step s = .next t) :
    t.done = true ∧ t.busy = false ∧ t.cur = none ∧ t.ovr = s.ovr ∧
    (t.errcode = 0 → t.err = s.err) ∧ (t.errcode ≠ 0 → t.err = true) ∧
    t.resetAsserted = s.resetAsserted ∧ t.resp = s.resp ∧ t.cfg = s.cfg ∧ t.key = s.key ∧
    t.bufOff = s.bufOff ∧ t.bufLen = s.bufLen ∧ t.events = s.events.tail := by
  obtain ⟨v, -, ⟨i, -, hexec⟩ | ⟨-, rfl⟩⟩ := engine_next hturn h
  · exact exec_status hexec
  · simp [EngineError.code]

/-- A turn of an engine that is idle or held in reset takes the event and does nothing else (R217, R231). -/
theorem step_disabled {s : State} (hdisabled : ¬ (s.busy = true ∧ s.resetAsserted = false))
    (hevent : s.events = [] ∨ s.events.head? = some .engine) : step s = .next s.afterEvent := by
  have hturn (rest : List Event) : engineTurn { s with events := rest } = .next { s with events := rest } :=
    if_neg (mt (engineEnabled_iff _).1 hdisabled)
  cases hlist : s.events with
  | nil =>
    have hsame : { s with events := [] } = s := by rw [← hlist]
    simp only [step, nextEvent, hlist, State.afterEvent, List.tail_nil]
    exact hsame ▸ hturn []
  | cons e rest =>
    obtain rfl : e = .engine := by simpa [hlist] using hevent
    simp only [step, nextEvent, hlist, takeEvent, State.afterEvent, List.tail_cons]
    exact hturn rest

/-- Settles O7: an idle engine's turn is disabled; a good busy engine has a latched word, and each way its
turn can end clears BUSY. -/
theorem engineStepEnabledExactlyWhenBusy : Obligations.EngineStepEnabledExactlyWhenBusy := by
  unfold Obligations.EngineStepEnabledExactlyWhenBusy
  have hidle (s : State) (hb : s.busy = false) : ¬ (s.busy = true ∧ s.resetAsserted = false) := by simp [hb]
  refine ⟨fun s hb hempty => ?_, fun s hb hevent => step_disabled (hidle s hb) (.inr hevent),
    fun s hgood hturn => ?_⟩
  · have hsame : s.afterEvent = s := by rw [State.afterEvent, hempty, List.tail_nil, ← hempty]
    exact (step_disabled (hidle s hb) (.inl hempty)).trans (congrArg _ hsame)
  · obtain ⟨v, hcur⟩ := exists_cur_of_busy hgood.latch hturn.1.1
    obtain ⟨t, hstep⟩ := engine_isNext hturn hcur
    obtain ⟨-, hbusy, -⟩ := engine_status hturn hstep
    exact ⟨t, hstep, hbusy⟩

theorem tableWord_toNat (w : Word) : tableWord 32 w.toNat = w := by
  rw [tableWord, Nat.mod_eq_of_lt w.isLt, BitVec.ofNat_toNat, BitVec.setWidth_eq]

/-- Settles O6: the turn decodes the latched word, and `withFetchWord` latches the word it is given. -/
theorem stepRunsTheDecodedCommand : Obligations.StepRunsTheDecodedCommand := by
  unfold Obligations.StepRunsTheDecodedCommand
  refine ⟨fun s v i hturn hcur hi => step_of_decode hturn hcur hi, fun s i hwf => ?_⟩
  rw [State.withFetchWord, tableWord_toNat]
  have hturn : (latchCommand (encode i) s).EngineNext := ⟨⟨rfl, rfl⟩, .inr rfl⟩
  exact step_of_decode hturn rfl (decode_encode hwf)

/-! NOP and DECRYPT_BLOCK (R189, R150, R202). -/

/-- Settles O11: NOP is the completion and nothing else. -/
theorem nopCompletes : Obligations.NopCompletes := by
  unfold Obligations.NopCompletes
  exact fun _ => rfl

/-- Settles O14: LEN 16 and KSV 1 pass both checks, and the block function runs on the state's schedule. -/
theorem decryptBlockDecryptsInPlace : Obligations.DecryptBlockDecryptsInPlace := by
  unfold Obligations.DecryptBlockDecryptsInPlace
  exact fun _ hksv => execDecryptBlock_ok hksv

/-- Settles O15: the length is checked before KSV is looked at. -/
theorem decryptBlockRejectsOtherLengths : Obligations.DecryptBlockRejectsOtherLengths := by
  unfold Obligations.DecryptBlockRejectsOtherLengths
  exact fun s _ hlen => execDecryptBlock_badLength hlen s

/-! EXPAND (R125 to R127). -/

theorem byteAt_putPrefix_of_lt {n : Nat} (xs : Vector Byte n) {bs : List Byte} {k : Nat} (hk : k < bs.length)
    (hn : bs.length ≤ n) : byteAt (putPrefix xs bs) k = bs.getD k 0 := by
  rw [byteAt_putPrefix xs bs (hk.trans_le hn), List.getD_eq_getElem?_getD, List.getElem?_eq_getElem hk]
  rfl

theorem byteAt_putPrefix_of_ge {n : Nat} (xs : Vector Byte n) {bs : List Byte} {k : Nat} (hk : bs.length ≤ k) :
    byteAt (putPrefix xs bs) k = byteAt xs k := by
  by_cases hn : k < n
  · rw [byteAt_putPrefix xs bs hn, List.getElem?_eq_none hk, Option.getD_none]
  · rw [byteAt, byteAt, dif_neg hn, dif_neg hn]

/-- EXPAND's schedule is `16*(Nr+1)` bytes long and fits RK (R6, R24). -/
theorem expandKey_keyOperand_length {len : Nat} (hlen : len = 16 ∨ len = 24 ∨ len = 32) (s : State) :
    (expandKey (keyOperand len s)).length = 16 * (rounds len + 1) ∧ 16 * (rounds len + 1) ≤ 240 := by
  have hkey : (keyOperand len s).length = len := keyOperand_length (by omega) s
  exact ⟨by rw [expandKey_length (by rwa [hkey]), hkey], by unfold rounds keyWords; omega⟩

theorem toNat_nk_installSchedule {len : Nat} (hlen : len ≤ 32) (s : State) :
    (installSchedule len s).nk.toNat = len / 4 := by
  rw [installSchedule_nk, BitVec.toNat_ofNat, keyWords, Nat.mod_eq_of_lt (by omega)]

/-- Settles O12: the bytes that EXPAND writes to RK are as many as the schedule it describes has. -/
theorem expandInstallsTheSchedule : Obligations.ExpandInstallsTheSchedule := by
  unfold Obligations.ExpandInstallsTheSchedule
  intro s len hlen
  obtain ⟨hlength, hfits⟩ := expandKey_keyOperand_length hlen s
  have hsize : 16 * (len / 4 + 7) = 16 * (rounds len + 1) := by unfold rounds keyWords; omega
  refine ⟨_, execExpand_legal hlen s, fun k hk => ?_, fun k hk => ?_, ?_, ?_, ?_, rfl, rfl, rfl, rfl⟩
  · rw [complete_rk, installSchedule_rk, byteAt_putPrefix_of_lt _ (by omega) (by omega)]
    rfl
  · rw [complete_rk, installSchedule_rk, byteAt_putPrefix_of_ge _ (by omega)]
  · rw [complete_ksv, installSchedule_ksv]
  · rw [complete_nk, toNat_nk_installSchedule (by omega)]
  · rw [complete_nr, toNat_nr_installSchedule (by omega)]; rfl

/-- EXPAND looks at KEY through its operand only (R126). -/
theorem exec_expand_key_congr {s t : State} {len : Nat} {key : Vector Byte 32}
    (hkey : keyOperand len { s with key := key } = keyOperand len s) (h : exec (.expand len) s = .next t) :
    exec (.expand len) { s with key := key } = .next { t with key := key } := by
  have hinstall : installSchedule len { s with key := key } = { installSchedule len s with key := key } := by
    simp only [installSchedule, hkey]
  by_cases hlen : len = 16 ∨ len = 24 ∨ len = 32
  · obtain rfl := Host.Outcome.next.inj (h.symm.trans (execExpand_legal hlen s))
    refine (execExpand_legal hlen _).trans ?_
    rw [hinstall]
    rfl
  · obtain rfl := Host.Outcome.next.inj (h.symm.trans (execExpand_illegal hlen s))
    exact execExpand_illegal hlen _

/-- Settles O22: the operand is `KEY[0, L)`, and no other use of KEY is made. -/
theorem expandReadsOnlyItsKeyBytes : Obligations.ExpandReadsOnlyItsKeyBytes := by
  unfold Obligations.ExpandReadsOnlyItsKeyBytes
  exact fun s t len key hkey h => exec_expand_key_congr (toList_take_congr hkey) h

/-! DECRYPT_BUF (R170 to R175). -/

theorem isSome_read_decryptBuffer (s : State) {k j : Nat} (hk : k < s.bufLen.toNat / 16) (hj : j < 16) :
    (Memory.read (decryptBuffer s).dbuf (s.bufOff.toNat + 16 * k + j)).isSome :=
  decryptChunks_isSome _ _ _ _ hk hj

/-- Settles O18: the chunk laws of the decrypted buffer, on a state that passes both checks. -/
theorem decryptBufDecryptsEveryFullChunk : Obligations.DecryptBufDecryptsEveryFullChunk := by
  unfold Obligations.DecryptBufDecryptsEveryFullChunk
  intro s hksv hrange
  exact ⟨_, execDecryptBuf_ok hksv hrange, rfl, rfl, rfl, rfl, fun k hk =>
    ⟨fun b hb => holdsBlock_decryptBuffer hk hb, fun _ j hj => isSome_read_decryptBuffer s hk hj⟩⟩

/-! The frame of the commands (R56). -/

section
variable {i : Instr} {s t : State} (h : exec i s = .next t)
include h

/-- RK and its description are written by EXPAND only (R125, R201). -/
theorem exec_schedule_frame (hi : ∀ len, i ≠ .expand len) :
    t.rk = s.rk ∧ t.ksv = s.ksv ∧ t.nk = s.nk ∧ t.nr = s.nr := by
  rcases exec_next h with ⟨-, rfl⟩ | ⟨len, rfl, -⟩ | ⟨len, rfl, -⟩ | ⟨len, -, -, rfl⟩ |
    ⟨-, -, rfl⟩ | ⟨-, -, rfl⟩ | ⟨-, -, rfl⟩ | ⟨-, -, -, rfl⟩ | ⟨-, -, -, rfl⟩
  · exact ⟨rfl, rfl, rfl, rfl⟩
  · exact absurd rfl (hi len)
  · exact absurd rfl (hi len)
  · exact ⟨rfl, rfl, rfl, rfl⟩
  · exact ⟨rfl, rfl, rfl, rfl⟩
  · exact ⟨rfl, rfl, rfl, rfl⟩
  · exact ⟨rfl, rfl, rfl, rfl⟩
  · exact ⟨rfl, rfl, rfl, rfl⟩
  · exact ⟨rfl, rfl, rfl, rfl⟩

/-- BLK is written by the DECRYPT_BLOCK that passes both checks only (R150). -/
theorem exec_blk_frame (hi : ¬ (i = .decryptBlock 16 ∧ s.ksv = true)) : t.blk = s.blk := by
  rcases exec_next h with ⟨-, rfl⟩ | ⟨len, -, -, rfl⟩ | ⟨len, -, -, rfl⟩ | ⟨len, -, -, rfl⟩ |
    ⟨-, -, rfl⟩ | ⟨hblock, hksv, -⟩ | ⟨-, -, rfl⟩ | ⟨-, -, -, rfl⟩ | ⟨-, -, -, rfl⟩
  · rfl
  · simp
  · rfl
  · rfl
  · rfl
  · exact absurd ⟨hblock, hksv⟩ hi
  · rfl
  · rfl
  · rfl

/-- DBUF is written by the DECRYPT_BUF that passes both checks only (R170). -/
theorem exec_dbuf_frame
    (hi : ¬ (i = .decryptBuf ∧ s.ksv = true ∧ s.bufOff.toNat + s.bufLen.toNat ≤ s.cfg.bufSize)) :
    t.draws = s.draws ∧ t.dbuf = s.dbuf := by
  rcases exec_next h with ⟨-, rfl⟩ | ⟨len, -, -, rfl⟩ | ⟨len, -, -, rfl⟩ | ⟨len, -, -, rfl⟩ |
    ⟨-, -, rfl⟩ | ⟨-, -, rfl⟩ | ⟨-, -, rfl⟩ | ⟨-, -, -, rfl⟩ | ⟨hbuf, hksv, hrange, -⟩
  · exact ⟨rfl, rfl⟩
  · simp
  · exact ⟨rfl, rfl⟩
  · exact ⟨rfl, rfl⟩
  · exact ⟨rfl, rfl⟩
  · exact ⟨rfl, rfl⟩
  · exact ⟨rfl, rfl⟩
  · exact ⟨rfl, rfl⟩
  · exact absurd ⟨hbuf, hksv, hrange⟩ hi

/-- Outside the full chunks no command writes DBUF (R173). -/
theorem exec_read_outside {a : Nat}
    (ha : a < s.bufOff.toNat ∨ s.bufOff.toNat + 16 * (s.bufLen.toNat / 16) ≤ a) :
    Memory.read t.dbuf a = Memory.read s.dbuf a := by
  by_cases hi : i = .decryptBuf
  · subst hi
    exact read_exec_decryptBuf_outside h ha
  · obtain ⟨-, hdbuf⟩ := exec_dbuf_frame h fun hbuf => hi hbuf.1
    rw [hdbuf]

end

/-- Settles O21: `exec_status` for the fields no command writes, and one frame lemma per target. -/
theorem commandsWriteOnlyTheirTargets : Obligations.CommandsWriteOnlyTheirTargets := by
  unfold Obligations.CommandsWriteOnlyTheirTargets
  intro i s t h
  obtain ⟨-, -, -, hovr, -, -, hreset, hresp, hcfg, hkey, hoff, hlen, hevents⟩ := exec_status h
  refine ⟨hkey, hoff, hlen, hovr, hcfg, hevents, hreset, hresp, exec_schedule_frame h,
    fun hi => exec_blk_frame h fun hblock => hi 16 hblock.1, fun hi => ?_, fun a => exec_read_outside h⟩
  obtain ⟨hdraws, hdbuf⟩ := exec_dbuf_frame h fun hbuf => hi hbuf.1
  exact ⟨hdraws, fun a => by rw [hdbuf]⟩

end Sys2Proof.Machine
end

section
/-! One step, by what happened in it (R62): `step_cases` with the host's access and the reset input taken
apart, and what changes BUSY, DONE, ERR, OVR and the completion fields (R27). -/

namespace Sys2Proof.Machine

/-- The release of an asserted reset input is next (R230). -/
abbrev State.ReleaseNext (s : State) : Prop :=
  s.events.head? = some .resetRelease ∧ s.resetAsserted = true

theorem step_releaseNext {s : State} (h : s.ReleaseNext) : step s = .next (releaseReset s.afterEvent) := by
  rw [step_resetRelease h.1, resetReleaseTurn, if_pos h.2]

/-- What a step that answers `t` was: the engine's completion, a released reset, an accepted write with an
effect, or a turn that changes nothing but the model's own fields. -/
inductive Turn (s t : State) : Prop
  /-- The engine's turn of a busy engine (R179). -/
  | completion (hturn : s.EngineNext) (hstep : step s = .next t)
  /-- The release of an asserted reset (R230). -/
  | release (hreset : s.ReleaseNext) (ht : t = releaseReset s.afterEvent)
  /-- An idle turn, a read, an ignored write, a bus error, or a reset input that does not fall. -/
  | quiet (r : Response) (d : Nat) (level : Bool)
      (ht : t = { s.afterEvent with resp := r, draws := d, resetAsserted := level })
  /-- A STATUS write (R28). -/
  | statusWrite (addr : Nat) (v : Word) (hnext : s.HostNext (.wr addr 4 v)) (hoff : addr % 0x10000 = 0x004)
      (ht : t = { writeStatus v s.afterEvent with resp := .ack })
  /-- A write that a busy engine drops (R186). -/
  | drop (addr : Nat) (v : Word) (hnext : s.HostNext (.wr addr 4 v))
      (hoff : WritableOffset s.cfg (addr % 0x10000)) (hb : s.busy = true)
      (ht : t = { s.afterEvent with ovr := true, resp := .ack })
  /-- A write that an idle engine stores (R182, R183). -/
  | store (addr : Nat) (v : Word) (r : Reg) (hnext : s.HostNext (.wr addr 4 v))
      (hreg : regAt s.cfg (addr % 0x10000) = r) (h4 : addr % 0x10000 % 4 = 0) (hb : s.busy = false)
      (ht : t = { storeReg v s.afterEvent r with resp := .ack })

/-- An accepted write is one of the four turns of R181. -/
theorem turn_of_write {s : State} {addr : Nat} {v : Word} (hnext : s.HostNext (.wr addr 4 v))
    (h4 : addr % 4 = 0) : Turn s (writeReg v (regAt s.cfg (addr % 0x10000)) s.afterEvent) := by
  rcases writeReg_cases v (regAt s.cfg (addr % 0x10000)) s.afterEvent with
    ⟨hreg, ht⟩ | ⟨-, -, ht⟩ | ⟨hw, hb, ht⟩ | ⟨hw, hb, ht⟩
  · exact .statusWrite addr v hnext ((regAt_status_iff _ _).1 hreg) (hreg ▸ ht)
  · exact .quiet .ack s.draws s.resetAsserted ht
  · exact .drop addr v hnext ((regAt_writable_iff _ _).1 hw) hb ht
  · exact .store addr v _ hnext rfl (by omega) hb ht

theorem turn_of_step {s t : State} (h : step s = .next t) : Turn s t := by
  rcases step_cases h with ⟨hturn, -⟩ | ⟨-, -, rfl⟩ | ⟨a, hevent, rfl⟩ | ⟨-, rfl⟩ | ⟨hevent, rfl⟩
  · exact .completion hturn h
  · exact .quiet s.resp s.draws s.resetAsserted rfl
  · rcases hostAccess_cases a s.afterEvent with ⟨r, d, ha⟩ | ⟨addr, v, rfl, h4, hreset, ha⟩
    · exact .quiet r d s.resetAsserted ha
    · exact ha ▸ turn_of_write ⟨hevent, hreset⟩ h4
  · exact .quiet s.resp s.draws true rfl
  · cases hlevel : s.resetAsserted with
    | true => exact .release ⟨hevent, hlevel⟩ (if_pos hlevel)
    | false =>
      refine .quiet s.resp s.draws s.resetAsserted (if_neg ?_)
      simp [hlevel]

/-! The fields that only a completion or a reset touches (R24, R25, R27). -/

/-- A step that is no completion and no reset keeps the schedule, ERRCODE and the parameters, and neither
ends a command nor sets DONE or ERR. -/
theorem step_frame {s t : State} (h : step s = .next t) (hturn : ¬ s.EngineNext) (hreset : ¬ s.ReleaseNext) :
    t.rk = s.rk ∧ t.ksv = s.ksv ∧ t.nk = s.nk ∧ t.nr = s.nr ∧ t.errcode = s.errcode ∧ t.cfg = s.cfg ∧
      (s.busy = true → t.busy = true) ∧ (s.done = false → t.done = false) ∧
      (s.err = false → t.err = false) := by
  cases turn_of_step h with
  | completion hE _ => exact absurd hE hturn
  | release hr _ => exact absurd hr hreset
  | quiet r d level ht => subst ht; exact ⟨rfl, rfl, rfl, rfl, rfl, rfl, id, id, id⟩
  | statusWrite addr v _ _ ht => subst ht; simp +contextual
  | drop addr v _ _ _ ht => subst ht; exact ⟨rfl, rfl, rfl, rfl, rfl, rfl, id, id, id⟩
  | store addr v r _ _ _ hb ht =>
    subst ht
    obtain ⟨hrk, hksv, hnk, hnr, herr, -, herrcode, hcfg, -⟩ := storeReg_frame v s.afterEvent r
    refine ⟨hrk, hksv, hnk, hnr, herrcode, hcfg, ?_, ?_, fun h => herr.trans h⟩
    · simp [hb]
    · cases r <;> simp [storeReg]

/-- Only EXPAND's completion and a reset change the schedule: the other commands keep it (R65). -/
theorem schedule_of_engine {s t : State} (hturn : s.EngineNext) (h : step s = .next t)
    (hexpand : ¬ ∃ v len, s.cur = some v ∧ decode v = .ok (.expand len)) :
    t.rk = s.rk ∧ t.ksv = s.ksv ∧ t.nk = s.nk ∧ t.nr = s.nr := by
  obtain ⟨v, hcur, ⟨i, hi, hexec⟩ | ⟨-, rfl⟩⟩ := engine_next hturn h
  · refine exec_schedule_frame (s := s.afterEvent) hexec fun len hlen => hexpand ⟨v, len, hcur, ?_⟩
    rw [hi, hlen]
  · exact ⟨rfl, rfl, rfl, rfl⟩

/-- Settles O49: any other step keeps the four fields, the completion of another command included. -/
theorem scheduleChangesOnlyByExpandOrReset : Obligations.ScheduleChangesOnlyByExpandOrReset := by
  unfold Obligations.ScheduleChangesOnlyByExpandOrReset
  intro s t h hchange
  by_contra hcause
  obtain ⟨hexpand, hreset⟩ := not_or.1 hcause
  have hkept : t.rk = s.rk ∧ t.ksv = s.ksv ∧ t.nk = s.nk ∧ t.nr = s.nr := by
    by_cases hturn : s.EngineNext
    · exact schedule_of_engine hturn h fun hx => hexpand ⟨hturn, hx⟩
    · obtain ⟨hrk, hksv, hnk, hnr, -⟩ := step_frame h hturn hreset
      exact ⟨hrk, hksv, hnk, hnr⟩
  obtain ⟨hrk, hksv, hnk, hnr⟩ := hkept
  simp [hrk, hksv, hnk, hnr] at hchange

/-- BUSY falls at a completion and at a reset only (R27). -/
theorem busy_falls {s t : State} (h : step s = .next t) (hs : s.busy = true) (ht : t.busy = false) :
    s.EngineNext ∨ s.ReleaseNext := by
  by_contra hcause
  obtain ⟨hturn, hreset⟩ := not_or.1 hcause
  obtain ⟨-, -, -, -, -, -, hbusy, -⟩ := step_frame h hturn hreset
  simp [hbusy hs] at ht

/-- Settles O51: `step_frame` keeps each of the fields. -/
theorem completionFieldsChangeOnlyAtCompletionOrReset :
    Obligations.CompletionFieldsChangeOnlyAtCompletionOrReset := by
  unfold Obligations.CompletionFieldsChangeOnlyAtCompletionOrReset
  intro s t h hchange
  by_contra hcause
  obtain ⟨hturn, hreset⟩ := not_or.1 hcause
  obtain ⟨-, hksv, hnk, hnr, herrcode, -⟩ := step_frame h hturn hreset
  simp only [hksv, hnk, hnr, herrcode, ne_eq, not_true_eq_false, false_or] at hchange
  exact hcause (busy_falls h hchange.1 hchange.2)

/-! The sticky flags (R27, R28, R186). -/

section
variable {s t : State} (h : step s = .next t)
include h

theorem err_falls (hs : s.err = true) (ht : t.err = false) :
    (∃ addr v, s.HostNext (.wr addr 4 v) ∧ addr % 0x10000 = 0x004 ∧ v.getLsbD 2 = true) ∨
    s.ReleaseNext := by
  cases turn_of_step h with
  | completion hturn _ =>
    obtain ⟨-, -, -, -, hzero, hcode, -⟩ := engine_status hturn h
    by_cases hc : t.errcode = 0
    · simp [hzero hc, hs] at ht
    · simp [hcode hc] at ht
  | release hreset _ => exact .inr hreset
  | quiet r d level heq => subst heq; simp [hs] at ht
  | statusWrite addr v hnext hoff heq =>
    subst heq
    exact .inl ⟨addr, v, hnext, hoff, by simpa [hs] using ht⟩
  | drop addr v _ _ _ heq => subst heq; simp [hs] at ht
  | store addr v r _ _ _ _ heq =>
    subst heq
    obtain ⟨-, -, -, -, herr, -⟩ := storeReg_frame v s.afterEvent r
    simp [herr, hs] at ht

theorem ovr_falls (hs : s.ovr = true) (ht : t.ovr = false) :
    (∃ addr v, s.HostNext (.wr addr 4 v) ∧ addr % 0x10000 = 0x004 ∧ v.getLsbD 3 = true) ∨
    s.ReleaseNext := by
  cases turn_of_step h with
  | completion hturn _ =>
    obtain ⟨-, -, -, hovr, -⟩ := engine_status hturn h
    simp [hovr, hs] at ht
  | release hreset _ => exact .inr hreset
  | quiet r d level heq => subst heq; simp [hs] at ht
  | statusWrite addr v hnext hoff heq =>
    subst heq
    exact .inl ⟨addr, v, hnext, hoff, by simpa [hs] using ht⟩
  | drop addr v _ _ _ heq => subst heq; simp at ht
  | store addr v r _ _ _ _ heq =>
    subst heq
    obtain ⟨-, -, -, -, -, hovr, -⟩ := storeReg_frame v s.afterEvent r
    simp [hovr, hs] at ht

theorem err_rises (hs : s.err = false) (ht : t.err = true) : s.EngineNext ∧ t.errcode ≠ 0 := by
  have hreset : ¬ s.ReleaseNext := by
    intro hrelease
    obtain rfl := Host.Outcome.next.inj (h.symm.trans (step_releaseNext hrelease))
    simp at ht
  by_cases hturn : s.EngineNext
  · obtain ⟨-, -, -, -, hzero, -⟩ := engine_status hturn h
    exact ⟨hturn, fun hc => by simp [hzero hc, hs] at ht⟩
  · obtain ⟨-, -, -, -, -, -, -, -, herr⟩ := step_frame h hturn hreset
    simp [herr hs] at ht

theorem ovr_rises (hs : s.ovr = false) (ht : t.ovr = true) :
    s.busy = true ∧ ∃ addr v, s.HostNext (.wr addr 4 v) ∧ WritableOffset s.cfg (addr % 0x10000) := by
  cases turn_of_step h with
  | completion hturn _ =>
    obtain ⟨-, -, -, hovr, -⟩ := engine_status hturn h
    simp [hovr, hs] at ht
  | release _ heq => subst heq; simp at ht
  | quiet r d level heq => subst heq; simp [hs] at ht
  | statusWrite addr v _ _ heq => subst heq; simp [hs] at ht
  | drop addr v hnext hoff hb _ => exact ⟨hb, addr, v, hnext, hoff⟩
  | store addr v r _ _ _ _ heq =>
    subst heq
    obtain ⟨-, -, -, -, -, hovr, -⟩ := storeReg_frame v s.afterEvent r
    simp [hovr, hs] at ht

end

/-- Settles O52: the four changes, each by the turns that can make it. -/
theorem errAndOvrAreSticky : Obligations.ErrAndOvrAreSticky := by
  unfold Obligations.ErrAndOvrAreSticky
  exact fun s t h => ⟨err_falls h, ovr_falls h, err_rises h, ovr_rises h⟩

/-! BUSY and DONE (R27, R183, R204). -/

/-- Of the stores only CMD's, the acceptance, touches BUSY, DONE and the latch (R183). -/
theorem storeReg_command_frame {r : Reg} (hr : r ≠ .cmd) (v : Word) (s : State) :
    (storeReg v s r).busy = s.busy ∧ (storeReg v s r).done = s.done ∧ (storeReg v s r).cur = s.cur := by
  cases r with
  | cmd => exact absurd rfl hr
  | _ => simp [storeReg]

section
variable {s t : State} (h : step s = .next t)
include h

theorem busy_rises (hs : s.busy = false) (ht : t.busy = true) :
    ∃ addr v, s.HostNext (.wr addr 4 v) ∧ addr % 0x10000 = 0x000 ∧ t.cur = some v := by
  cases turn_of_step h with
  | completion hturn _ => exact absurd (hs.symm.trans hturn.1.1) Bool.false_ne_true
  | release _ heq => subst heq; simp at ht
  | quiet r d level heq => subst heq; simp [hs] at ht
  | statusWrite addr v _ _ heq => subst heq; simp [hs] at ht
  | drop addr v _ _ _ heq => subst heq; simp [hs] at ht
  | store addr v r hnext hreg _ _ heq =>
    subst heq
    by_cases hr : r = .cmd
    · subst hr
      exact ⟨addr, v, hnext, (regAt_cmd_iff _ _).1 hreg, rfl⟩
    · obtain ⟨hbusy, -⟩ := storeReg_command_frame hr v s.afterEvent
      simp [hbusy, hs] at ht

theorem done_rises (hs : s.done = false) (ht : t.done = true) : s.EngineNext := by
  have hreset : ¬ s.ReleaseNext := by
    intro hrelease
    obtain rfl := Host.Outcome.next.inj (h.symm.trans (step_releaseNext hrelease))
    simp at ht
  by_contra hturn
  obtain ⟨-, -, -, -, -, -, -, hdone, -⟩ := step_frame h hturn hreset
  simp [hdone hs] at ht

theorem done_falls (hs : s.done = true) (ht : t.done = false) :
    (s.busy = false ∧ ∃ addr v, s.HostNext (.wr addr 4 v) ∧ addr % 0x10000 = 0x000 ∧ t.busy = true) ∨
    (∃ addr v, s.HostNext (.wr addr 4 v) ∧ addr % 0x10000 = 0x004 ∧ v.getLsbD 1 = true) ∨
    s.ReleaseNext := by
  cases turn_of_step h with
  | completion hturn _ => obtain ⟨hdone, -⟩ := engine_status hturn h; simp [hdone] at ht
  | release hreset _ => exact .inr (.inr hreset)
  | quiet r d level heq => subst heq; simp [hs] at ht
  | statusWrite addr v hnext hoff heq =>
    subst heq
    exact .inr (.inl ⟨addr, v, hnext, hoff, by simpa [hs] using ht⟩)
  | drop addr v _ _ _ heq => subst heq; simp [hs] at ht
  | store addr v r hnext hreg _ hb heq =>
    subst heq
    by_cases hr : r = .cmd
    · subst hr
      exact .inl ⟨hb, addr, v, hnext, (regAt_cmd_iff _ _).1 hreg, rfl⟩
    · obtain ⟨-, hdone, -⟩ := storeReg_command_frame hr v s.afterEvent
      simp [hdone, hs] at ht

end

/-- Settles O60: the four changes, each by the turns that can make it. -/
theorem busyAndDoneChangeOnlyByTheirCauses : Obligations.BusyAndDoneChangeOnlyByTheirCauses := by
  unfold Obligations.BusyAndDoneChangeOnlyByTheirCauses
  exact fun s t h => ⟨busy_rises h, busy_falls h, done_rises h, done_falls h⟩

/-! The operands (R21 to R23, R30): which store changes which register, byte by byte. -/

theorem byteAt_putWord_ne {n : Nat} {xs : Vector Byte n} {i k : Nat} {v : Word}
    (h : byteAt (putWord xs i v) k ≠ byteAt xs k) : k < n ∧ i = k / 4 := by
  by_cases hk : k < n
  · rw [byteAt_putWord xs i v hk] at h
    exact ⟨hk, by_contra fun hi => h (if_neg (Ne.symm hi))⟩
  · rw [byteAt, byteAt, dif_neg hk, dif_neg hk] at h
    exact absurd rfl h

section
variable {v : Word} {s : State} {r : Reg}

theorem reg_of_storeReg_key {k : Nat} (h : byteAt (storeReg v s r).key k ≠ byteAt s.key k) :
    k < 32 ∧ r = .key (k / 4) := by
  cases r with
  | key i => obtain ⟨hk, rfl⟩ := byteAt_putWord_ne h; exact ⟨hk, rfl⟩
  | _ => simp [storeReg] at h

theorem reg_of_storeReg_blk {k : Nat} (h : byteAt (storeReg v s r).blk k ≠ byteAt s.blk k) :
    k < 16 ∧ r = .blk (k / 4) := by
  cases r with
  | blk i => obtain ⟨hk, rfl⟩ := byteAt_putWord_ne h; exact ⟨hk, rfl⟩
  | _ => simp [storeReg] at h

theorem reg_of_storeReg_dbuf {a : Nat}
    (h : Memory.read (storeReg v s r).dbuf a ≠ Memory.read s.dbuf a) : r = .dbuf (a / 4) := by
  cases r with
  | dbuf i =>
    rw [read_storeReg_dbuf] at h
    exact congrArg _ (by_contra fun hi => h (if_neg (Ne.symm hi)))
  | _ => simp [storeReg] at h

theorem reg_of_storeReg_bufOff (h : (storeReg v s r).bufOff ≠ s.bufOff) : r = .bufOff := by
  cases r with
  | bufOff => rfl
  | _ => simp [storeReg] at h

theorem reg_of_storeReg_bufLen (h : (storeReg v s r).bufLen ≠ s.bufLen) : r = .bufLen := by
  cases r with
  | bufLen => rfl
  | _ => simp [storeReg] at h

end

/-- At a completion BLK changes by the one legal DECRYPT_BLOCK word only, and DBUF by the DECRYPT_BUF word
only, in the full chunks (R150, R170, R173). -/
theorem operands_of_engine {s t : State} (hturn : s.EngineNext) (h : step s = .next t) :
    (t.blk ≠ s.blk → s.ksv = true ∧ s.cur = some 0x00001002) ∧
    (∀ a, Memory.read t.dbuf a ≠ Memory.read s.dbuf a →
      s.ksv = true ∧ s.cur = some 0x00000003 ∧ s.bufOff.toNat + s.bufLen.toNat ≤ s.cfg.bufSize ∧
        s.bufOff.toNat ≤ a ∧ a < s.bufOff.toNat + 16 * (s.bufLen.toNat / 16)) := by
  obtain ⟨v, hcur, ⟨i, hi, hexec⟩ | ⟨-, rfl⟩⟩ := engine_next hturn h
  · have hword : s.cur = some (encode i) := by rw [hcur, encode_decode hi]
    refine ⟨fun hblk => ?_, fun a hread => ?_⟩
    · obtain ⟨rfl, hksv⟩ := not_not.1 (mt (exec_blk_frame hexec) hblk)
      exact ⟨hksv, hword⟩
    · obtain ⟨rfl, hksv, hrange⟩ := not_not.1 <| mt (exec_dbuf_frame hexec) fun hkept =>
        hread (by rw [hkept.2])
      have hchunks : ¬ (a < s.bufOff.toNat ∨ s.bufOff.toNat + 16 * (s.bufLen.toNat / 16) ≤ a) :=
        mt (exec_read_outside (s := s.afterEvent) hexec) hread
      exact ⟨hksv, hword, hrange, by omega, by omega⟩
  · exact ⟨fun hblk => absurd rfl hblk, fun _ hread => absurd rfl hread⟩

/-- Outside a reset the operands are written by an idle engine's store, or they change as a completion
changes them. -/
theorem operands_of_step {s t : State} (h : step s = .next t)
    (hreset : ¬ s.ReleaseNext) :
    (∃ addr v r, s.HostNext (.wr addr 4 v) ∧ regAt s.cfg (addr % 0x10000) = r ∧
      addr % 0x10000 % 4 = 0 ∧ s.busy = false ∧ t = { storeReg v s.afterEvent r with resp := .ack }) ∨
    (t.key = s.key ∧ t.bufOff = s.bufOff ∧ t.bufLen = s.bufLen ∧
      (s.EngineNext ∨ t.blk = s.blk ∧ t.dbuf = s.dbuf)) := by
  cases turn_of_step h with
  | completion hturn _ =>
    obtain ⟨-, -, -, -, -, -, -, -, -, hkey, hoff, hlen, -⟩ := engine_status hturn h
    exact .inr ⟨hkey, hoff, hlen, .inl hturn⟩
  | release hr _ => exact absurd hr hreset
  | quiet r d level ht => subst ht; exact .inr ⟨rfl, rfl, rfl, .inr ⟨rfl, rfl⟩⟩
  | statusWrite addr v _ _ ht => subst ht; exact .inr ⟨rfl, rfl, rfl, .inr ⟨rfl, rfl⟩⟩
  | drop addr v _ _ _ ht => subst ht; exact .inr ⟨rfl, rfl, rfl, .inr ⟨rfl, rfl⟩⟩
  | store addr v r hnext hreg h4 hb ht => exact .inl ⟨addr, v, r, hnext, hreg, h4, hb, ht⟩

/-- Settles O50: a store that changes a byte is the store of its own register, which the map has at one
offset only. -/
theorem operandsChangeOnlyByTheirWriters : Obligations.OperandsChangeOnlyByTheirWriters := by
  unfold Obligations.OperandsChangeOnlyByTheirWriters
  intro s t h hreset
  rcases operands_of_step h hreset with
    ⟨addr, v, r, hnext, hreg, h4, hb, rfl⟩ | ⟨hkey, hoff, hlen, hdata⟩
  · refine ⟨fun k hk => ?_, fun hoff => ?_, fun hlen => ?_, fun k hk => .inl ?_, fun a ha => .inl ?_⟩
    · obtain ⟨hlt, rfl⟩ := reg_of_storeReg_key (s := s.afterEvent) hk
      exact ⟨hb, addr, v, hnext, hlt, (regAt_eq_key h4 hreg).2⟩
    · obtain rfl := reg_of_storeReg_bufOff (s := s.afterEvent) hoff
      exact ⟨hb, addr, hnext, (regAt_bufOff_iff _ _).1 hreg⟩
    · obtain rfl := reg_of_storeReg_bufLen (s := s.afterEvent) hlen
      exact ⟨hb, addr, hnext, (regAt_bufLen_iff _ _).1 hreg⟩
    · obtain ⟨hlt, rfl⟩ := reg_of_storeReg_blk (s := s.afterEvent) hk
      exact ⟨hb, addr, v, hnext, hlt, (regAt_eq_blk h4 hreg).2⟩
    · obtain rfl := reg_of_storeReg_dbuf (s := s.afterEvent) ha
      obtain ⟨hsize, haddr⟩ := regAt_eq_dbuf h4 hreg
      exact ⟨hb, addr, v, hnext, hsize, haddr⟩
  · refine ⟨fun k hk => absurd (by rw [hkey]) hk, fun hne => absurd hoff hne,
      fun hne => absurd hlen hne, fun k hk => .inr ?_, fun a ha => .inr ?_⟩
    · obtain hturn | ⟨hblk, -⟩ := hdata
      · exact ⟨hturn, (operands_of_engine hturn h).1 fun hblk => hk (by rw [hblk])⟩
      · exact absurd (by rw [hblk]) hk
    · obtain hturn | ⟨-, hdbuf⟩ := hdata
      · exact ⟨hturn, (operands_of_engine hturn h).2 a ha⟩
      · exact absurd (by rw [hdbuf]) ha

end Sys2Proof.Machine
end

section
/-! Reset (70_reset_and_hazards.md), good states and progress (R34, R179): reset makes a good state, every
step keeps it good, and a good busy engine comes to its completion. -/

namespace Sys2Proof.Machine

/-! The released reset (R230, R231). -/

@[simp] theorem byteAt_replicate_zero (n k : Nat) : byteAt (Vector.replicate n 0#8) k = 0#8 := by
  unfold byteAt
  split <;> simp

@[simp] theorem wordAt_replicate_zero (n i : Nat) : wordAt (Vector.replicate n 0#8) i = 0#32 := by
  simp only [wordAt, byteAt_replicate_zero]
  rfl

theorem rkWord_of_noSchedule {s : State} (hksv : s.ksv = false) (i : Nat) : rkWord s i = 0 := by
  simp [rkWord, hksv]

theorem hostAccess_in_reset {s : State} (hreset : s.resetAsserted = true) (a : HostAccess) :
    hostAccess a s = { s with resp := .notAccepted } :=
  if_pos hreset

/-- Settles O54: the access is refused before it is looked at, and the release is `releaseReset`, whose fields
are the reset values. -/
theorem resetGivesEveryItemItsValue : Obligations.ResetGivesEveryItemItsValue := by
  unfold Obligations.ResetGivesEveryItemItsValue
  refine ⟨fun s a hevent hreset => ?_, fun s hevent hreset =>
    ⟨releaseReset s.afterEvent, step_releaseNext ⟨hevent, hreset⟩, ?_⟩⟩
  · rw [step_host hevent, hostAccess_in_reset (s := s.afterEvent) hreset]
  · have hstatus : statusWord (releaseReset s.afterEvent) = 0 := by simp [statusWord]
    have hrk := rkWord_of_noSchedule (releaseReset_ksv s.afterEvent)
    simp [hstatus, hrk, regValue]

/-- The state after a reset with legal parameters is good (R34, R230). -/
theorem resetWith_good {cfg : Config} (hcfg : cfg.Legal) (events : List Event) (draws : Nat) :
    (State.resetWith cfg events draws).Good where
  latch := rfl
  noSchedule := fun _ => ⟨rfl, rfl⟩
  schedule := fun hksv => absurd hksv Bool.false_ne_true
  errcode := Nat.zero_le 5
  buffer := ⟨List.Pairwise.nil, fun _ hx => absurd hx List.not_mem_nil⟩
  config := hcfg

/-- Settles O55: the state after reset is a reset with the reference parameters. -/
theorem resetStateIsGood : Obligations.ResetStateIsGood := by
  unfold Obligations.ResetStateIsGood
  exact ⟨resetWith_good (by decide) [] 0, rfl, rfl, by decide, rfl, rfl⟩

/-! What keeps a state good (R34). -/

/-- The first bytes of a schedule are its key (R122, R124). -/
theorem take_expandKey {k : List Byte} (hlen : k.length = 16 ∨ k.length = 24 ∨ k.length = 32) :
    (expandKey k).take k.length = k := by
  have hexp := expandKey_length hlen
  have hlong : k.length ≤ (expandKey k).length := by unfold rounds keyWords at hexp; omega
  have hbyte (bs : List Byte) {j r : Nat} (hr : r < 4) :
      bs.getD (4 * j + r) 0 = (keyWordAt bs j).bytes.getD r 0 := by
    interval_cases r <;> rfl
  refine List.ext_getElem (by simpa using hlong) fun i _ hi => ?_
  have hword := keyWordAt_expandKey_of_lt k (i := i / 4) (by unfold keyWords; omega)
  have hsame : (expandKey k).getD i 0 = k.getD i 0 := by
    rw [← Nat.div_add_mod i 4, hbyte _ (Nat.mod_lt i (by decide)), hword,
      ← hbyte _ (Nat.mod_lt i (by decide))]
  rw [List.getElem_take]
  rwa [List.getD_eq_getElem _ _ (hi.trans_le hlong), List.getD_eq_getElem _ _ hi] at hsame

/-- EXPAND's schedule is the expansion of its own first bytes, which are the key it was given (R34, R124). -/
theorem installSchedule_scheduleInv {len : Nat} (hlen : len = 16 ∨ len = 24 ∨ len = 32) (s : State) :
    (installSchedule len s).scheduleInv := by
  intro _
  have hkey : (keyOperand len s).length = len := keyOperand_length (by omega) s
  have hnk := toNat_nk_installSchedule (len := len) (by omega) s
  have hnr := toNat_nr_installSchedule (len := len) (by omega) s
  obtain ⟨hexp, hfits⟩ := expandKey_keyOperand_length hlen s
  refine ⟨?_, by rw [hnr, hnk]; rfl, ?_⟩
  · rw [installSchedule_nk]
    rcases hlen with rfl | rfl | rfl <;> decide
  · have hfirst : (installSchedule len s).rk.toList.take (4 * (installSchedule len s).nk.toNat) =
        keyOperand len s := by
      calc (installSchedule len s).rk.toList.take (4 * (installSchedule len s).nk.toNat)
          = (expandKey (keyOperand len s)).take len := by
            rw [← take_putPrefix s.rk (expandKey (keyOperand len s)) (by omega), List.take_take,
              installSchedule_rk, hnk]
            congr 1
            unfold rounds keyWords at hexp
            omega
        _ = keyOperand len s := by
            have := take_expandKey (k := keyOperand len s) (by rwa [hkey])
            rwa [hkey] at this
    rw [hfirst]
    exact roundKeys_installSchedule hlen s

theorem EngineError.code_le_five (e : EngineError) : e.code.toNat ≤ 5 := by
  cases e <;> decide

section
variable {s : State} (hs : s.Good)
include hs

theorem complete_good : (complete s).Good :=
  good_congr hs rfl rfl rfl rfl rfl (Nat.zero_le 5) hs.buffer rfl

theorem raiseError_good (e : EngineError) : (raiseError e s).Good :=
  good_congr hs rfl rfl rfl rfl rfl e.code_le_five hs.buffer rfl

theorem clearSchedule_good : (clearSchedule s).Good where
  latch := hs.latch
  noSchedule := fun _ => ⟨rfl, rfl⟩
  schedule := fun hksv => absurd hksv Bool.false_ne_true
  errcode := hs.errcode
  buffer := hs.buffer
  config := hs.config

theorem installSchedule_good {len : Nat} (hlen : len = 16 ∨ len = 24 ∨ len = 32) :
    (installSchedule len s).Good where
  latch := by rw [State.latchInv, installSchedule_busy, installSchedule_cur]; exact hs.latch
  noSchedule := fun hksv => by simp at hksv
  schedule := installSchedule_scheduleInv hlen s
  errcode := by rw [State.errcodeInv, installSchedule_errcode]; exact hs.errcode
  buffer := by rw [State.bufferInv, installSchedule_dbuf, installSchedule_cfg]; exact hs.buffer
  config := by rw [installSchedule_cfg]; exact hs.config

/-- The chunks lie inside the buffer, and so inside the RAM (R170, R171). -/
theorem decryptBuffer_good (hrange : s.bufOff.toNat + s.bufLen.toNat ≤ s.cfg.bufSize) :
    (decryptBuffer s).Good := by
  obtain ⟨hwf, hwithin⟩ := hs.buffer
  have hchunks : s.bufOff.toNat + 16 * chunkCount s ≤ s.cfg.bufSize := by unfold chunkCount; omega
  exact good_congr hs hs.latch rfl rfl rfl rfl hs.errcode
    ⟨decryptChunks_wf _ _ _ hwf, decryptChunks_within _ hwithin hchunks⟩ rfl

theorem exec_good {i : Instr} {t : State} (h : exec i s = .next t) : t.Good := by
  rcases exec_next h with ⟨-, rfl⟩ | ⟨len, -, hlen, rfl⟩ | ⟨len, -, -, rfl⟩ | ⟨len, -, -, rfl⟩ |
    ⟨-, -, rfl⟩ | ⟨-, -, rfl⟩ | ⟨-, -, rfl⟩ | ⟨-, -, -, rfl⟩ | ⟨-, -, hrange, rfl⟩
  · exact complete_good hs
  · exact complete_good (installSchedule_good hs hlen)
  · exact raiseError_good (clearSchedule_good hs) _
  · exact raiseError_good hs _
  · exact raiseError_good hs _
  · exact good_congr hs rfl rfl rfl rfl rfl (Nat.zero_le 5) hs.buffer rfl
  · exact raiseError_good hs _
  · exact raiseError_good hs _
  · exact complete_good (decryptBuffer_good hs hrange)

/-- A DBUF word of the window map lies inside the RAM (R26, R30). -/
theorem storeReg_bufferInv (v : Word) {r : Reg} {off : Nat} (hreg : regAt s.cfg off = r) :
    (storeReg v s r).bufferInv := by
  obtain ⟨hwf, hwithin⟩ := hs.buffer
  cases r with
  | dbuf i =>
    exact ⟨Memory.writeBytes_wf _ hwf _, Memory.writeBytes_within _ hwithin (regAt_dbuf_lt hs.config hreg)⟩
  | _ => simp only [storeReg]; exact hs.buffer

/-- An idle engine's store keeps BUSY and the latch together: CMD's sets both (R183). -/
theorem storeReg_good (v : Word) {r : Reg} {off : Nat} (hreg : regAt s.cfg off = r) :
    (storeReg v s r).Good := by
  obtain ⟨hrk, hksv, hnk, hnr, -, -, herrcode, hcfg, -⟩ := storeReg_frame v s r
  have hlatch : (storeReg v s r).latchInv := by
    by_cases hr : r = .cmd
    · subst hr; rfl
    · obtain ⟨hbusy, -, hcur⟩ := storeReg_command_frame hr v s
      rw [State.latchInv, hbusy, hcur]
      exact hs.latch
  have hcode : (storeReg v s r).errcodeInv := by rw [State.errcodeInv, herrcode]; exact hs.errcode
  exact good_congr hs hlatch hksv hnk hnr hrk hcode (storeReg_bufferInv hs v hreg) hcfg

theorem afterEvent_good : s.afterEvent.Good :=
  good_congr hs hs.latch rfl rfl rfl rfl hs.errcode hs.buffer rfl

end

/-- Every turn keeps a good state good: the invariant of R34 is inductive. -/
theorem step_good {s t : State} (hs : s.Good) (h : step s = .next t) : t.Good := by
  have ha := afterEvent_good hs
  cases turn_of_step h with
  | completion hturn _ =>
    obtain ⟨v, -, ⟨i, -, hexec⟩ | ⟨-, rfl⟩⟩ := engine_next hturn h
    · exact exec_good ha hexec
    · exact raiseError_good ha _
  | release _ ht => subst ht; exact resetWith_good hs.config _ _
  | quiet r d level ht =>
    subst ht
    exact good_congr hs hs.latch rfl rfl rfl rfl hs.errcode hs.buffer rfl
  | statusWrite addr v _ _ ht =>
    subst ht
    exact good_congr hs hs.latch rfl rfl rfl rfl hs.errcode hs.buffer rfl
  | drop addr v _ _ _ ht =>
    subst ht
    exact good_congr hs hs.latch rfl rfl rfl rfl hs.errcode hs.buffer rfl
  | store addr v r _ hreg _ _ ht =>
    subst ht
    have hstore := storeReg_good ha v hreg
    exact good_congr hstore hstore.latch rfl rfl rfl rfl hstore.errcode hstore.buffer rfl

/-- No step changes the parameters of the engine. -/
theorem step_cfg {s t : State} (h : step s = .next t) : t.cfg = s.cfg := by
  cases turn_of_step h with
  | completion hturn _ =>
    obtain ⟨-, -, -, -, -, -, -, -, hcfg, -⟩ := engine_status hturn h
    exact hcfg
  | release _ ht => subst ht; exact releaseReset_cfg _
  | quiet r d level ht => subst ht; rfl
  | statusWrite addr v _ _ ht => subst ht; rfl
  | drop addr v _ _ _ ht => subst ht; rfl
  | store addr v r _ _ _ _ ht =>
    subst ht
    obtain ⟨-, -, -, -, -, -, -, hcfg, -⟩ := storeReg_frame v s.afterEvent r
    exact hcfg

/-- Settles O56: the invariant turn by turn, and the parameters by their own frame. -/
theorem stepKeepsGoodStates : Obligations.StepKeepsGoodStates := by
  unfold Obligations.StepKeepsGoodStates
  exact fun s t hs h => ⟨step_good hs h, step_cfg h⟩

/-! Progress (R179). -/

theorem step_resetAssert {s : State} (h : s.events.head? = some .resetAssert) :
    step s = .next { s.afterEvent with resetAsserted := true } := by
  obtain ⟨rest, hlist⟩ := List.head?_eq_some_iff.1 h
  simp only [step, nextEvent, hlist, takeEvent, List.tail_cons]

/-- Only the engine's turn could stop, and in a good state it has a word to run. -/
theorem good_step_isNext {s : State} (hs : s.Good) : ∃ t, step s = .next t := by
  by_cases hevent : s.events = [] ∨ s.events.head? = some .engine
  · by_cases hen : s.busy = true ∧ s.resetAsserted = false
    · obtain ⟨v, hcur⟩ := exists_cur_of_busy hs.latch hen.1
      exact engine_isNext ⟨hen, hevent⟩ hcur
    · exact ⟨_, step_disabled hen hevent⟩
  · cases hlist : s.events with
    | nil => exact absurd (.inl hlist) hevent
    | cons e rest =>
      cases e with
      | engine => exact absurd (.inr (by rw [hlist]; rfl)) hevent
      | host a => exact ⟨_, step_host (by rw [hlist]; rfl)⟩
      | resetAssert => exact ⟨_, step_resetAssert (by rw [hlist]; rfl)⟩
      | resetRelease => exact ⟨_, step_resetRelease (by rw [hlist]; rfl)⟩

/-- Settles O57: the one fault needs a busy engine without a word, which is not good. -/
theorem goodStatesNeverStop : Obligations.GoodStatesNeverStop := by
  unfold Obligations.GoodStatesNeverStop
  exact fun s hs => good_step_isNext hs

theorem run_succ_of_step {s t : State} (h : step s = .next t) (n : Nat) :
    Host.Core.run core (n + 1) s = Host.Core.run core n t := by
  have hcore : core.step s = .next t := h
  simp only [Host.Core.run, hcore]

/-- The engine's turn is a run of one step that ends the command. -/
theorem completes_of_engineNext {s : State} (hs : s.Good) (hturn : s.EngineNext) :
    ∃ t, Host.Core.run core 1 s = .next t ∧ t.busy = false := by
  obtain ⟨t, hstep⟩ := good_step_isNext hs
  obtain ⟨-, hbusy, -⟩ := engine_status hturn hstep
  exact ⟨t, run_succ_of_step hstep 0, hbusy⟩

/-- By induction on the pending events: a host access leaves the engine busy and good, one event nearer to
its turn. -/
theorem completes_within {s : State} (hs : s.Good) (hbusy : s.busy = true) (hreset : s.resetAsserted = false)
    (hevents : ∀ e ∈ s.events, e ≠ .resetAssert ∧ e ≠ .resetRelease) :
    ∃ n ≤ s.events.length + 1, ∃ t, Host.Core.run core n s = .next t ∧ t.busy = false := by
  induction hlist : s.events generalizing s with
  | nil => exact ⟨1, le_rfl, completes_of_engineNext hs ⟨⟨hbusy, hreset⟩, .inl hlist⟩⟩
  | cons e rest ih =>
    have hhead : s.events.head? = some e := by rw [hlist]; rfl
    cases e with
    | engine => exact ⟨1, by omega, completes_of_engineNext hs ⟨⟨hbusy, hreset⟩, .inr hhead⟩⟩
    | host a =>
      have hstep := step_host hhead
      obtain ⟨-, -, -, -, -, hkeeps, hrest, hlevel⟩ := hostAccess_frame a s.afterEvent
      have htail : (hostAccess a s.afterEvent).events = rest := by rw [hrest, State.afterEvent, hlist]; rfl
      obtain ⟨n, hn, t, hrun, ht⟩ := ih (step_good hs hstep) (hkeeps hbusy).1 (hlevel.trans hreset)
        (fun e he => hevents e (by rw [hlist]; exact List.mem_cons_of_mem _ (htail ▸ he))) htail
      exact ⟨n + 1, by simpa using hn, t, (run_succ_of_step hstep n).trans hrun, ht⟩
    | resetAssert => exact absurd rfl (hevents .resetAssert (by simp [hlist])).1
    | resetRelease => exact absurd rfl (hevents .resetRelease (by simp [hlist])).2

/-- Settles O58: `completes_within`, whose events are host accesses and engine turns only. -/
theorem acceptedCommandsComplete : Obligations.AcceptedCommandsComplete := by
  unfold Obligations.AcceptedCommandsComplete
  exact fun s hs hbusy hreset hevents => completes_within hs hbusy hreset hevents

end Sys2Proof.Machine
end

section
/-! RK bytes that no schedule covers (R24, R32): no turn looks at them, so two runs that differ in them only
go on differing in them only. -/

namespace Sys2Proof.Machine

/-- `rk` has the bytes of the state's schedule; where no schedule covers RK it may hold anything. -/
def State.SameSchedule (s : State) (rk : Vector Byte 240) : Prop :=
  s.ksv = true → ∀ k < 16 * (s.nr.toNat + 1), byteAt rk k = byteAt s.rk k

theorem State.sameSchedule_self (s : State) : s.SameSchedule s.rk := fun _ _ _ => rfl

/-- Agreement on the schedule's bytes looks at KSV, NR and RK only. -/
theorem State.SameSchedule.congr {s t : State} {rk : Vector Byte 240} (h : s.SameSchedule rk)
    (hksv : t.ksv = s.ksv) (hnr : t.nr = s.nr) (hrk : t.rk = s.rk) : t.SameSchedule rk := by
  unfold State.SameSchedule
  rwa [hksv, hnr, hrk]

/-! The host's turn (R32, R180, R181). -/

section
variable {s : State} {rk : Vector Byte 240} (h : s.SameSchedule rk)
include h

theorem rkWord_sameSchedule (i : Nat) : rkWord { s with rk := rk } i = rkWord s i := by
  unfold rkWord
  by_cases hread : (s.ksv && decide (4 * i < 16 * (s.nr.toNat + 1))) = true
  · rw [if_pos hread, if_pos hread]
    obtain ⟨hksv, hi⟩ := (Bool.and_eq_true _ _).mp hread
    have hi := of_decide_eq_true hi
    have hbyte (j : Nat) (hj : j < 4) : byteAt rk (4 * i + j) = byteAt s.rk (4 * i + j) :=
      h hksv _ (by omega)
    simp only [wordAt, hbyte 1 (by decide), hbyte 2 (by decide), hbyte 3 (by decide),
      show byteAt rk (4 * i) = _ from hbyte 0 (by decide), Nat.add_zero]
  · rw [if_neg hread, if_neg hread]

theorem readReg_sameSchedule (r : Reg) : readReg r { s with rk := rk } = { readReg r s with rk := rk } := by
  have hvalue : regValue { s with rk := rk } r = regValue s r := by
    cases r with
    | rk i => exact rkWord_sameSchedule h i
    | _ => rfl
  have hflight : inFlight { s with rk := rk } r = inFlight s r := by cases r <;> rfl
  have hdraws : readDraws { s with rk := rk } r = readDraws s r := by cases r <;> rfl
  simp only [readReg, readValue, hvalue, hflight, hdraws]

end

/-- No write looks at RK or changes it (R184). -/
theorem writeReg_with_rk (v : Word) (r : Reg) (s : State) (rk : Vector Byte 240) :
    writeReg v r { s with rk := rk } = { writeReg v r s with rk := rk } := by
  have hstore : storeReg v { s with rk := rk } r = { storeReg v s r with rk := rk } := by
    cases r <;> simp only [storeReg, acceptCommand]
  unfold writeReg writeEffect
  rw [hstore]
  split_ifs <;> rfl

theorem hostAccess_sameSchedule {s : State} {rk : Vector Byte 240} (h : s.SameSchedule rk) (a : HostAccess) :
    hostAccess a { s with rk := rk } = { hostAccess a s with rk := rk } := by
  unfold hostAccess
  cases a with
  | rd addr size => simp only [readReg_sameSchedule h]; split_ifs <;> rfl
  | wr addr size v => simp only [writeReg_with_rk]; split_ifs <;> rfl

/-! The commands (R56). -/

/-- EXPAND writes every byte that its schedule covers, so what RK held before is covered or unobservable. -/
theorem installSchedule_sameSchedule {len : Nat} (hlen : len = 16 ∨ len = 24 ∨ len = 32) (s : State)
    (rk : Vector Byte 240) :
    (installSchedule len s).SameSchedule (putPrefix rk (expandKey (keyOperand len s))) := by
  intro _ k hk
  obtain ⟨hlength, hfits⟩ := expandKey_keyOperand_length hlen s
  rw [toNat_nr_installSchedule (by omega)] at hk
  rw [installSchedule_rk, byteAt_putPrefix_of_lt _ (by omega) (by omega),
    byteAt_putPrefix_of_lt _ (by omega) (by omega)]

theorem decryptWith_sameSchedule {s : State} {rk : Vector Byte 240} (h : s.SameSchedule rk)
    (hksv : s.ksv = true) : decryptWith { s with rk := rk } = decryptWith s := by
  have hschedule : schedule { s with rk := rk } = schedule s := toList_take_congr (h hksv)
  funext b
  simp only [decryptWith, hschedule]

theorem exec_sameSchedule {i : Instr} {s t : State} {rk : Vector Byte 240} (hrk : s.SameSchedule rk)
    (h : exec i s = .next t) :
    ∃ rk', exec i { s with rk := rk } = .next { t with rk := rk' } ∧ t.SameSchedule rk' := by
  rcases exec_next h with ⟨rfl, rfl⟩ | ⟨len, rfl, hlen, rfl⟩ | ⟨len, rfl, hlen, rfl⟩ | ⟨len, rfl, hlen, rfl⟩ |
    ⟨rfl, hksv, rfl⟩ | ⟨rfl, hksv, rfl⟩ | ⟨rfl, hksv, rfl⟩ | ⟨rfl, hksv, hrange, rfl⟩ | ⟨rfl, hksv, hrange, rfl⟩
  · exact ⟨rk, rfl, hrk⟩
  · have hinstall : installSchedule len { s with rk := rk } =
        { installSchedule len s with rk := putPrefix rk (expandKey (keyOperand len s)) } := by
      simp only [installSchedule, keyOperand]
    have hagree := (installSchedule_sameSchedule hlen s rk).congr
      (complete_ksv (installSchedule len s)) (complete_nr _) (complete_rk _)
    refine ⟨_, (execExpand_legal hlen _).trans ?_, hagree⟩
    rw [hinstall]
    rfl
  · exact ⟨rk, execExpand_illegal hlen _, fun hksv => absurd hksv Bool.false_ne_true⟩
  · exact ⟨rk, execDecryptBlock_badLength hlen _, hrk⟩
  · exact ⟨rk, execDecryptBlock_noSchedule (s := { s with rk := rk }) hksv, hrk⟩
  · refine ⟨rk, (execDecryptBlock_ok (s := { s with rk := rk }) hksv).trans ?_, hrk⟩
    rw [decryptWith_sameSchedule hrk hksv]
    rfl
  · exact ⟨rk, execDecryptBuf_noSchedule (s := { s with rk := rk }) hksv, hrk⟩
  · exact ⟨rk, execDecryptBuf_badRange (s := { s with rk := rk }) hksv hrange, hrk⟩
  · refine ⟨rk, (execDecryptBuf_ok (s := { s with rk := rk }) hksv hrange).trans ?_, hrk⟩
    rw [decryptBuffer, decryptWith_sameSchedule hrk hksv]
    rfl

/-! One step (R62). -/

/-- The engine's turn: the latched word is the same, and so is the command that runs. -/
theorem engine_sameSchedule {s t : State} {rk : Vector Byte 240} (hrk : s.SameSchedule rk)
    (hturn : s.EngineNext) (h : step s = .next t) :
    ∃ rk', step { s with rk := rk } = .next { t with rk := rk' } ∧ t.SameSchedule rk' := by
  have hturn' : ({ s with rk := rk } : State).EngineNext := hturn
  obtain ⟨v, hcur, ⟨i, hi, hexec⟩ | ⟨hill, rfl⟩⟩ := engine_next hturn h
  · obtain ⟨rk', hexec', hrk'⟩ := exec_sameSchedule (s := s.afterEvent) hrk hexec
    exact ⟨rk', (step_of_decode hturn' hcur hi).trans hexec', hrk'⟩
  · exact ⟨rk, step_illegalWord hturn' hcur hill, hrk⟩

/-- A release that is one wipes RK in both runs; another one keeps it. -/
theorem resetReleaseTurn_sameSchedule {s : State} {rk : Vector Byte 240} (hrk : s.SameSchedule rk) :
    ∃ rk', resetReleaseTurn { s with rk := rk } = { resetReleaseTurn s with rk := rk' } ∧
      (resetReleaseTurn s).SameSchedule rk' := by
  unfold resetReleaseTurn
  split_ifs with hreset
  · exact ⟨(releaseReset s).rk, rfl, State.sameSchedule_self _⟩
  · exact ⟨rk, rfl, hrk⟩

theorem step_sameSchedule {s t : State} {rk : Vector Byte 240} (hrk : s.SameSchedule rk)
    (h : step s = .next t) :
    ∃ rk', step { s with rk := rk } = .next { t with rk := rk' } ∧ t.SameSchedule rk' := by
  rcases step_cases h with ⟨hturn, -⟩ | ⟨hdisabled, hevent, rfl⟩ | ⟨a, hevent, rfl⟩ | ⟨hevent, rfl⟩ |
    ⟨hevent, rfl⟩
  · exact engine_sameSchedule hrk hturn h
  · exact ⟨rk, step_disabled (s := { s with rk := rk }) hdisabled hevent, hrk⟩
  · refine ⟨rk, (step_host (s := { s with rk := rk }) hevent).trans ?_, ?_⟩
    · exact congrArg _ (hostAccess_sameSchedule (s := s.afterEvent) hrk a)
    · obtain ⟨hkept, hksv, -, hnr, -⟩ := hostAccess_frame a s.afterEvent
      exact State.SameSchedule.congr (s := s) hrk hksv hnr hkept
  · exact ⟨rk, step_resetAssert (s := { s with rk := rk }) hevent, hrk⟩
  · obtain ⟨rk', hturn, hrk'⟩ := resetReleaseTurn_sameSchedule (s := s.afterEvent) hrk
    exact ⟨rk', (step_resetRelease (s := { s with rk := rk }) hevent).trans (congrArg _ hturn), hrk'⟩

/-- Settles O53: the simulation turn by turn; only RK reads and the commands look at RK, both within the
schedule. -/
theorem uncoveredRoundKeyBytesAreUnobservable : Obligations.UncoveredRoundKeyBytesAreUnobservable := by
  unfold Obligations.UncoveredRoundKeyBytesAreUnobservable
  exact fun s t rk hrk h => step_sameSchedule hrk h

end Sys2Proof.Machine
end

section
/-! Host accesses (20_memory.md, 44_control_and_access.md section 2): which are accepted (R53, R54), what a
read answers (R180, R61, R27) and that a written word is read back (R31). -/

namespace Sys2Proof.Machine

/-! Addresses (R53, R54). -/

theorem windowOffset_base_add {base : Nat} (hbase : base % 0x10000 = 0) (off : Nat) :
    windowOffset (base + off) = windowOffset off := by
  unfold windowOffset
  omega

theorem accessOk_base_add {base : Nat} (hbase : base % 0x10000 = 0) (off size : Nat) :
    accessOk (base + off) size = accessOk off size := by
  rw [accessOk, windowOffset_base_add hbase, ← accessOk]

/-- Settles O37: an access looks at its address through the window offset only. -/
theorem addressDecodesItsLow16Bits : Obligations.AddressDecodesItsLow16Bits := by
  unfold Obligations.AddressDecodesItsLow16Bits
  intro s base off size v hbase
  constructor <;> simp only [hostAccess, accessOk_base_add hbase, windowOffset_base_add hbase]

theorem accessOk_eq_false {addr size : Nat} (h : size ≠ 4 ∨ addr % 4 ≠ 0) : accessOk addr size = false := by
  rw [Bool.eq_false_iff, Ne, accessOk_iff]
  omega

/-! Reads by register (R61, R180). -/

/-- Only BLK, RK and the DBUF words are ever in flight (R61). -/
theorem inFlight_eq_false {r : Reg} (s : State) (hr : ∀ op, mayWrite s op r = false) :
    inFlight s r = false := by
  unfold inFlight
  cases s.cur <;> simp [hr]

theorem readReg_inFlight {s : State} {r : Reg} (h : inFlight s r = true) :
    readReg r s = { s with resp := .data (freeWord s.draws), draws := s.draws + 4 } := by
  simp [readReg, readValue, readDraws, h]

theorem readReg_notInFlight {s : State} {r : Reg} (h : inFlight s r = false) :
    readReg r s = { s with resp := .data (regValue s r), draws := (readReg r s).draws } := by
  simp [readReg, readValue, h]

theorem readReg_reserved (s : State) : readReg .reserved s = { s with resp := .data 0 } := by
  have hflight : inFlight s .reserved = false := inFlight_eq_false s fun _ => rfl
  simp [readReg, readValue, readDraws, regValue, hflight]

/-- Settles O38: such an access fails the one check there is, and the reserved register neither draws nor
stores. -/
theorem onlyAlignedWordAccessesAreAccepted : Obligations.OnlyAlignedWordAccessesAreAccepted := by
  unfold Obligations.OnlyAlignedWordAccessesAreAccepted
  refine ⟨fun s addr size v hbad => ⟨fun hnext => ?_, fun hnext => ?_⟩,
    fun s addr v h4 hoff => ⟨fun hnext => ?_, fun hnext => ?_⟩⟩
  · simp [step_host hnext.1, hostAccess, hnext.2, accessOk_eq_false hbad, busError]
  · simp [step_host hnext.1, hostAccess, hnext.2, accessOk_eq_false hbad, busError]
  · rw [step_read hnext h4, regAt_reserved hoff, readReg_reserved]
  · rw [step_write hnext h4, regAt_reserved hoff, writeReg_ignored (by decide) rfl]

/-- Settles O46: R61's offsets are those of the registers in flight, and such a read takes the next four
draws. -/
theorem inFlightReadsAreDraws : Obligations.InFlightReadsAreDraws := by
  unfold Obligations.InFlightReadsAreDraws
  intro s addr hnext h4 hflight
  have hreg : inFlight s.afterEvent (regAt s.cfg (addr % 0x10000)) = true :=
    (inFlight_iff s (by omega)).2 hflight
  exact ⟨by rw [step_read hnext h4, readReg_inFlight hreg], rfl⟩

/-! What the registers hold (R31, R32, R180). -/

theorem extract_dbufWord (s : State) (i : Nat) {j : Nat} (hj : j < 4) :
    (dbufWord s i).extractLsb' (8 * j) 8 = dbufByte s (4 * i + j) (s.draws + j) := by
  rw [dbufWord, extract_wordOf _ _ _ _ hj]
  interval_cases j <;> rfl

/-- A written byte of a DBUF word reads as itself, whatever the draws of the others (R30). -/
theorem extract_dbufWord_of_written {s : State} {i j : Nat} {b : Byte} (hj : j < 4)
    (hb : Memory.read s.dbuf (4 * i + j) = some b) : (dbufWord s i).extractLsb' (8 * j) 8 = b := by
  rw [extract_dbufWord s i hj, dbufByte, hb, Option.getD_some]

theorem rkWord_beyond {s : State} {i : Nat} (h : s.ksv = false ∨ 16 * (s.nr.toNat + 1) ≤ 4 * i) :
    rkWord s i = 0 := by
  refine if_neg fun hread => ?_
  obtain ⟨hksv, hi⟩ := (Bool.and_eq_true _ _).mp hread
  have hi := of_decide_eq_true hi
  rcases h with h | h
  · simp [h] at hksv
  · omega

theorem rkWord_within {s : State} {i : Nat} (hksv : s.ksv = true) (hi : 4 * i < 16 * (s.nr.toNat + 1)) :
    rkWord s i = wordAt s.rk i := by
  simp [rkWord, hksv, hi]

/-- Settles O44: the read answers the register at its offset, which the window map names, and of that
register's value the statement lists the bytes. -/
theorem hostReadReturnsTheRegister : Obligations.HostReadReturnsTheRegister := by
  unfold Obligations.HostReadReturnsTheRegister
  intro s addr off hnext hoff h4 hflight
  subst hoff
  generalize hoff : addr % 0x10000 = off at hflight
  have hreg : inFlight s.afterEvent (regAt s.cfg off) = false := by
    rw [Bool.eq_false_iff]
    exact mt (inFlight_iff s (by omega)).1 hflight
  refine ⟨regValue s (regAt s.cfg off), (readReg (regAt s.cfg off) s.afterEvent).draws, ?_,
    fun h => ?_, fun h => ?_, fun h => ?_, fun h => ?_, fun i hi h j hj => ?_, fun i hi h j hj => ?_,
    fun i hi h => ⟨fun hbeyond => ?_, fun hksv hin j hj => ?_⟩, fun i hi h j hj b hb => ?_, fun h => ?_⟩
  · rw [step_read hnext h4, hoff]
    exact congrArg _ (readReg_notInFlight hreg)
  · rw [(regAt_cmd_iff _ _).2 h]; rfl
  · rw [(regAt_status_iff _ _).2 h]; rfl
  · rw [(regAt_bufOff_iff _ _).2 h]; rfl
  · rw [(regAt_bufLen_iff _ _).2 h]; rfl
  · rw [h, regAt_key _ hi]; exact extract_wordAt s.key i hj
  · rw [h, regAt_blk _ hi]; exact extract_wordAt s.blk i hj
  · rw [h, regAt_rk _ hi]; exact rkWord_beyond hbeyond
  · rw [h, regAt_rk _ hi, regValue, rkWord_within hksv hin]; exact extract_wordAt s.rk i hj
  · rw [h, regAt_dbuf hi]; exact extract_dbufWord_of_written hj hb
  · rw [regAt_reserved h]; rfl

/-! STATUS (R27). -/

@[simp] theorem getLsbD_statusWord_busy (s : State) : (statusWord s).getLsbD 0 = s.busy := by
  simp only [statusWord, BitVec.getLsbD_append]
  simp

@[simp] theorem getLsbD_statusWord_done (s : State) : (statusWord s).getLsbD 1 = s.done := by
  simp only [statusWord, BitVec.getLsbD_append]
  simp

/-- Settles O45: bit by bit, through the fields as they are packed. -/
theorem statusReadHasTheFields : Obligations.StatusReadHasTheFields := by
  unfold Obligations.StatusReadHasTheFields
  intro s
  refine ⟨getLsbD_statusWord_busy s, getLsbD_statusWord_done s, ?_, ?_, ?_, ?_, ?_, ?_, ?_, ?_⟩
  case refine_3 | refine_5 | refine_6 | refine_7 | refine_8 =>
    -- a field of several bits
    refine BitVec.eq_of_getLsbD_eq fun i hi => ?_
    simp only [statusWord, BitVec.getLsbD_extractLsb', BitVec.getLsbD_append]
    interval_cases i <;> simp
  all_goals
    simp only [statusWord, BitVec.getLsbD_append]
    simp

/-! A write, then a read (R31, R235). -/

/-- The value of a register looks at neither the events nor the last answer. -/
theorem regValue_frame (s : State) (r : Reg) (events : List Event) (resp : Response) :
    regValue { s with events := events, resp := resp } r = regValue s r := by
  cases r <;> rfl

/-- An idle engine's read answers with the register. -/
theorem step_read_idle {s : State} {addr : Nat} {r : Reg} (hnext : s.HostNext (.rd addr 4)) (h4 : addr % 4 = 0)
    (hreg : regAt s.cfg (addr % 0x10000) = r) (hb : s.busy = false) :
    ∃ t, step s = .next t ∧ t.resp = .data (regValue s r) := by
  have hflight : inFlight s.afterEvent r = false := by simp [inFlight, hb]
  refine ⟨_, step_read hnext h4, ?_⟩
  rw [hreg, readReg_notInFlight hflight]
  exact congrArg _ (regValue_frame s r s.events.tail s.resp)

theorem step_read_status {s : State} {addr : Nat} (hnext : s.HostNext (.rd addr 4))
    (hoff : addr % 0x10000 = 0x004) : ∃ t, step s = .next t ∧ t.resp = .data (statusWord s) := by
  have hreg : regAt s.cfg (addr % 0x10000) = .status := (regAt_status_iff _ _).2 hoff
  have hflight : inFlight s.afterEvent .status = false := inFlight_eq_false _ fun _ => rfl
  refine ⟨_, step_read hnext (by omega), ?_⟩
  rw [hreg, readReg_notInFlight hflight]
  rfl

theorem dbufWord_of_written {s : State} {i : Nat} {v : Word}
    (h : ∀ j < 4, Memory.read s.dbuf (4 * i + j) = some (byteOf v j)) : dbufWord s i = v := by
  have hbyte (j : Nat) (hj : j < 4) (d : Nat) : dbufByte s (4 * i + j) d = byteOf v j := by
    rw [dbufByte, h j hj, Option.getD_some]
  rw [dbufWord, hbyte 1 (by decide), hbyte 2 (by decide), hbyte 3 (by decide),
    show dbufByte s (4 * i) _ = _ from hbyte 0 (by decide) _, wordOf_byteOf]

/-- A data register of the window map holds what was stored to it. -/
theorem regValue_storeReg {s : State} {r : Reg} {off : Nat} (v : Word) (hreg : regAt s.cfg off = r)
    (h4 : off % 4 = 0) (hw : r.writable = true) (hcmd : r ≠ .cmd) : regValue (storeReg v s r) r = v := by
  cases r with
  | cmd => exact absurd rfl hcmd
  | bufOff | bufLen => rfl
  | key i =>
    obtain ⟨hi, -⟩ := regAt_eq_key h4 hreg
    exact wordAt_putWord s.key i v (by omega)
  | blk i =>
    obtain ⟨hi, -⟩ := regAt_eq_blk h4 hreg
    exact wordAt_putWord s.blk i v (by omega)
  | dbuf i =>
    refine dbufWord_of_written fun j hj => ?_
    rw [read_storeReg_dbuf, if_pos (by omega), show (4 * i + j) % 4 = j by omega]
  | status | rk _ | reserved => cases hw

/-- Settles O47: the store puts the word where the read of the same register looks for it. -/
theorem writeThenReadBack : Obligations.WriteThenReadBack := by
  unfold Obligations.WriteThenReadBack
  intro s off v rest hevents hreset hb hcfg h4 hcmd hoff
  have hwindow : off % 0x10000 = off := by
    unfold WritableOffset at hoff
    obtain ⟨-, -, hsize, -⟩ := hcfg
    omega
  obtain ⟨r, hreg⟩ : ∃ r, regAt s.cfg off = r := ⟨_, rfl⟩
  have hw : r.writable = true := hreg ▸ (regAt_writable_iff _ _).2 hoff
  have hr : r ≠ .cmd := fun h => hcmd ((regAt_cmd_iff _ _).1 (hreg.trans h))
  have hnext : s.HostNext (.wr off 4 v) := ⟨by rw [hevents]; rfl, hreset⟩
  have hstep := step_write_idle hnext h4 (by rw [hwindow]; exact hreg) hw hb
  obtain ⟨-, -, -, -, -, -, -, hcfg', hevents', hreset', -⟩ := storeReg_frame v s.afterEvent r
  obtain ⟨hb', -⟩ := storeReg_command_frame hr v s.afterEvent
  obtain ⟨u, hread, hresp⟩ := step_read_idle (s := { storeReg v s.afterEvent r with resp := .ack }) (addr := off)
    (r := r) ⟨by rw [hevents', State.afterEvent, hevents]; rfl, hreset'.trans hreset⟩ h4
    (by rw [hcfg', hwindow]; exact hreg) (hb'.trans hb)
  refine ⟨_, u, hstep, hread, hresp.trans (congrArg _ ?_)⟩
  calc regValue { storeReg v s.afterEvent r with resp := .ack } r
      = regValue (storeReg v s.afterEvent r) r := regValue_frame _ r _ _
    _ = v := regValue_storeReg v hreg h4 hw hr

/-- Settles O48: the CMD write sets BUSY, and the engine's turn, which the latched word cannot stop, sets DONE
and clears BUSY; STATUS is read whatever is in flight. -/
theorem firstStatusReadSeesBusyOrDone : Obligations.FirstStatusReadSeesBusyOrDone := by
  unfold Obligations.FirstStatusReadSeesBusyOrDone
  have haccept {s : State} {w : Word} {rest : List Event}
      (hevents : s.events = .host (.wr 0x000 4 w) :: rest) (hreset : s.resetAsserted = false)
      (hb : s.busy = false) : step s = .next { acceptCommand w s.afterEvent with resp := .ack } :=
    step_write_idle (r := .cmd) ⟨by rw [hevents]; rfl, hreset⟩ rfl rfl rfl hb
  refine ⟨fun s w rest hevents hreset hb => ?_, fun s w rest hevents hreset hb => ?_⟩
  · obtain ⟨u, hread, hresp⟩ := step_read_status (s := { acceptCommand w s.afterEvent with resp := .ack })
      (addr := 0x004) ⟨by simp [hevents], hreset⟩ rfl
    exact ⟨_, u, _, haccept hevents hreset hb, hread, hresp, getLsbD_statusWord_busy _⟩
  · have hturn : ({ acceptCommand w s.afterEvent with resp := .ack } : State).EngineNext :=
      ⟨⟨rfl, hreset⟩, .inr (by simp [hevents])⟩
    obtain ⟨u, hstep⟩ := engine_isNext hturn rfl
    obtain ⟨hdone, hbusy, -, -, -, -, hreset', -, -, -, -, -, hevents'⟩ := engine_status hturn hstep
    obtain ⟨x, hread, hresp⟩ := step_read_status (s := u) (addr := 0x004)
      ⟨by simp [hevents', hevents], hreset'.trans hreset⟩ rfl
    exact ⟨_, u, x, _, haccept hevents hreset hb, hstep, hread, hresp,
      (getLsbD_statusWord_busy u).trans hbusy, (getLsbD_statusWord_done u).trans hdone⟩

end Sys2Proof.Machine
end

section
/-! A platform of several engines (60_exceptions.md section 4, R215): the step of one engine on the list. -/

namespace Sys2Proof.Machine

theorem stepAt_of_step {p : Platform} {i : Nat} {s t : State} (hs : p[i]? = some s) (h : step s = .next t) :
    Platform.stepAt p i = .next (p.set i t) := by
  simp only [Platform.stepAt, hs, h]

theorem stepAt_of_none {p : Platform} {i : Nat} (hi : p[i]? = none) : Platform.stepAt p i = .next p := by
  simp only [Platform.stepAt, hi]

/-- A platform's step at an engine is that engine's step, put in its place. -/
theorem stepAt_next {p q : Platform} {i : Nat} (h : Platform.stepAt p i = .next q) :
    (p[i]? = none ∧ q = p) ∨ ∃ s t, p[i]? = some s ∧ step s = .next t ∧ q = p.set i t := by
  cases hs : p[i]? with
  | none => exact .inl ⟨rfl, Host.Outcome.next.inj (h.symm.trans (stepAt_of_none hs))⟩
  | some s =>
    cases ht : step s with
    | next t => exact .inr ⟨s, t, rfl, ht, Host.Outcome.next.inj (h.symm.trans (stepAt_of_step hs ht))⟩
    | fault f => simp only [Platform.stepAt, hs, ht, reduceCtorEq] at h
    | refused r => simp only [Platform.stepAt, hs, ht, reduceCtorEq] at h

theorem getElem?_set_of_getElem? {p : Platform} {i : Nat} {s : State} (hs : p[i]? = some s) (t : State) :
    (p.set i t)[i]? = some t := by
  rw [List.getElem?_set_self', hs]; rfl

/-- Settles O59: the step sets one place of the list, to what that place's engine alone decides. -/
theorem instancesDoNotInteract : Obligations.InstancesDoNotInteract := by
  unfold Obligations.InstancesDoNotInteract
  intro p q i h
  rcases stepAt_next h with ⟨hnone, rfl⟩ | ⟨s, t, hs, hstep, rfl⟩
  · refine ⟨rfl, fun _ _ => rfl, fun s hs => ?_, fun p' hp' => ?_⟩
    · cases hnone.symm.trans hs
    · exact ⟨p', stepAt_of_none (hp'.trans hnone), hp'⟩
  · have hi := getElem?_set_of_getElem? hs t
    refine ⟨List.length_set, fun j hj => List.getElem?_set_ne (Ne.symm hj), fun s' hs' => ?_, fun p' hp' => ?_⟩
    · obtain rfl : s = s' := Option.some.inj (hs.symm.trans hs')
      exact ⟨t, hstep, hi⟩
    · have hs' : p'[i]? = some s := hp'.trans hs
      exact ⟨_, stepAt_of_step hs' hstep, (getElem?_set_of_getElem? hs' t).trans hi.symm⟩

end Sys2Proof.Machine
end
